-- ==== Sys2Proof/Word.lean ====
section
/-! DEFINITION. The words and data types of the colour block: unsigned integers, the command word, Bit-Timing
Patterns, the f64 datum. Source: spec/00_scope.md R7, spec/30_encoding.md R46, R54, spec/40_normalizer.md R64. -/

namespace Sys2Proof

/-- `u8` of 00_scope.md R7. -/
abbrev U8 := BitVec 8

/-- `u32` of 00_scope.md R7. -/
abbrev U32 := BitVec 32

/-- A 64-bit pattern, the form in which an `f64` operand is presented and latched (30_encoding.md R48, R49). -/
abbrev U64 := BitVec 64

/-- One command word, exactly 162 bits (30_encoding.md R45, R46). -/
abbrev CmdWord := BitVec 162

/-- The frame word `W` (10_state.md R23). -/
abbrev FrameWord := BitVec 24

/-- A Bit-Timing Pattern: high ticks, then low ticks (30_encoding.md R54).  No field width is fixed (D22).  Log 18. -/
structure Pattern where
  high : Nat
  low  : Nat
deriving DecidableEq, Repr, Inhabited

/-- The Pulse Sequence: exactly 24 patterns, entry 0 transmitted first (30_encoding.md R55). -/
abbrev PulseSequence := Vector Pattern 24

/-- An `f64` datum (40_normalizer.md R64).  `fin neg mag` is the number `± mag · 2^-1074`: every finite binary64
value is a whole multiple of `2^-1074`, so `mag` is a natural number, and the sign is kept for a zero too.
DESIGN CHOICE (log 9): one NaN without a payload; no rule lets anything see a NaN's bits. -/
inductive F64 where
  | nan
  | inf (neg : Bool)
  | fin (neg : Bool) (mag : Nat)
deriving DecidableEq, Repr, Inhabited

/-- The configuration parameter `CHANNEL_ROUNDING` (00_scope.md R6, 40_normalizer.md R71). -/
inductive Rounding where
  | trunc
  | nearest
deriving DecidableEq, Repr

end Sys2Proof
end

