-- ==== Sys2Proof/Syntax.lean ====
section
/-! DEFINITION. The commands: one constructor per row of spec/opcode_table.json (30_encoding.md R46, R59). -/

namespace Sys2Proof

/-- A decoded command word.  Operands are the fields as they stand (30_encoding.md R49): `s` and `v` are binary64
patterns, every other operand is a `u32`. -/
inductive Instr where
  /-- `SETRGB r, g, b` (41_encoder.md R89). -/
  | setrgb (r g b : U32)
  /-- `SETHSV h, s, v` (41_encoder.md R90). -/
  | sethsv (h : U32) (s v : U64)
  /-- `HSV2RGB h, s, v` (40_normalizer.md R74). -/
  | hsv2rgb (h : U32) (s v : U64)
  /-- The reserved operation, `op = 11`; its other bits are ignored (30_encoding.md R51). -/
  | reservedOp11
deriving DecidableEq, Repr

end Sys2Proof
end

