-- ==== Sys2Proof/WellFormed.lean ====
section
/-! DEFINITION. Which instructions are commands of the block (30_encoding.md R51, R52). -/

namespace Sys2Proof

/-- A word with `op = 11` is not a command (R51); with any other `op` every operand value makes a legal command
(R52), so this is the one check there is. -/
def Instr.wellFormed : Instr → Bool
  | .setrgb _ _ _  => true
  | .sethsv _ _ _  => true
  | .hsv2rgb _ _ _ => true
  | .reservedOp11  => false

end Sys2Proof
end

