-- ==== Sys2Proof/Decode.lean ====
section
/-! DEFINITION. The decoder of the 162-bit command word and the encoder beside it (30_encoding.md R45 to R52, R59). -/

namespace Sys2Proof

/-- `cmd[161:160]` (30_encoding.md R46). -/
def opField (w : CmdWord) : BitVec 2 := w.extractLsb' 160 2

/-- `cmd[159:128]`: `r` or `h` (R47, R48). -/
def firstField (w : CmdWord) : U32 := w.extractLsb' 128 32

/-- `cmd[127:96]`: `g` of format C (R47). -/
def gField (w : CmdWord) : U32 := w.extractLsb' 96 32

/-- `cmd[95:64]`: `b` of format C (R47). -/
def bField (w : CmdWord) : U32 := w.extractLsb' 64 32

/-- `cmd[127:64]`: `s` of format H (R48). -/
def sField (w : CmdWord) : U64 := w.extractLsb' 64 64

/-- `cmd[63:0]`: `v` of format H (R48). -/
def vField (w : CmdWord) : U64 := w.extractLsb' 0 64

/-- The decoder of R59: total, by `op` alone.  Bits 63:0 of format C are ignored (R50); `op = 11` is the reserved
instruction whatever its other bits are (R51), which the machine refuses by name. -/
def decode (w : CmdWord) : Instr :=
  if opField w = 0 then .setrgb (firstField w) (gField w) (bField w)
  else if opField w = 1 then .sethsv (firstField w) (sField w) (vField w)
  else if opField w = 2 then .hsv2rgb (firstField w) (sField w) (vField w)
  else .reservedOp11

/-- A value placed at a bit position of the command word. -/
def atBit {n : Nat} (value : BitVec n) (position : Nat) : CmdWord := value.setWidth 162 <<< position

/-- The encoder, written from the format tables R47, R48; the ignored bits are written as zero (R50). -/
def encode : Instr → CmdWord
  | .setrgb r g b  => atBit 0#2 160 ||| atBit r 128 ||| atBit g 96 ||| atBit b 64
  | .sethsv h s v  => atBit 1#2 160 ||| atBit h 128 ||| atBit s 64 ||| atBit v 0
  | .hsv2rgb h s v => atBit 2#2 160 ||| atBit h 128 ||| atBit s 64 ||| atBit v 0
  | .reservedOp11  => atBit 3#2 160

/-- One row of the opcode table of R59. -/
structure OpcodeRow where
  mnemonic : String
  mask  : CmdWord
  matchBits : CmdWord
deriving DecidableEq, Repr

/-- The opcode table of R59 (spec/opcode_table.json), mask and match copied digit for digit. -/
def opcodeTable : List OpcodeRow :=
  [ ⟨"SETRGB",  0x30000000000000000000000000000000000000000, 0x00000000000000000000000000000000000000000⟩,
    ⟨"SETHSV",  0x30000000000000000000000000000000000000000, 0x10000000000000000000000000000000000000000⟩,
    ⟨"HSV2RGB", 0x30000000000000000000000000000000000000000, 0x20000000000000000000000000000000000000000⟩,
    ⟨"RESERVED_OP11", 0x30000000000000000000000000000000000000000, 0x30000000000000000000000000000000000000000⟩ ]

/-- Whether a word is one of a row's. -/
def OpcodeRow.matchesWord (row : OpcodeRow) (w : CmdWord) : Bool := w &&& row.mask == row.matchBits

/-- The mnemonic of an instruction's row. -/
def Instr.mnemonic : Instr → String
  | .setrgb _ _ _  => "SETRGB"
  | .sethsv _ _ _  => "SETHSV"
  | .hsv2rgb _ _ _ => "HSV2RGB"
  | .reservedOp11  => "RESERVED_OP11"

/-- The command word whose bits are `w`, of which the table gives `nbits`: the word is one number, never split into
bytes (20_memory.md R34), so bit `i` of the number is bit `i` of the word. -/
def tableWord (nbits w : Nat) : CmdWord := BitVec.ofNat 162 (w % 2 ^ nbits)

/-- What the decoder reads from a table word.  DESIGN CHOICE (log 17): a number with a bit set above bit 161 is no
command word (a word has exactly 162 bits, R45) and gives `none`. -/
def decodeTableWord (nbits w : Nat) : Option Instr :=
  if w % 2 ^ nbits < 2 ^ 162 then some (decode (tableWord nbits w)) else none

end Sys2Proof
end

