-- ==== Sys2Proof/Config.lean ====
section
/-! DEFINITION. What is fixed before a run and left open by the spec, and the free values: constants without a body.
The parameters to which the spec gives a value stand in Sys2Proof/Machine/Params.lean. -/

namespace Sys2Proof.Config

/-- `OUTPUT_PIN`: open, opaque (00_scope.md R6, D19, U16).  Log 13. -/
opaque outputPin : Nat

/-- `CHANNEL_ID`: open, opaque (00_scope.md R6, D19, U16).  Log 13. -/
opaque channelId : Nat

/-- `CLOCK_DIVIDER`: open, opaque (00_scope.md R6, D19, U16).  Log 13. -/
opaque clockDivider : Nat

/-- `draw_u32()`: the value of the n-th draw of a run (40_normalizer.md R72, U1).  Log 3. -/
opaque drawU32 : Nat → U32

/-- The registers that reset leaves unspecified (10_state.md R29), the pattern registers apart. -/
inductive RegName where
  | STATUS | OP | H | S | V | R | G | B
  | ROUT | GOUT | BOUT
  | C | HQ | HM | T | K | X | M | RP | GP | BP
  | FREQ | TICKNS | W | I
deriving DecidableEq, Repr

/-- What a register holds after the n-th reset, until a rule writes it: unspecified (10_state.md R29, U13).
A register narrower than 64 bits holds the low bits.  Log 4. -/
opaque unspecified : RegName → Nat → U64

/-- What `PAT[0]`, `PAT[1]` (slots 0, 1) and `SEQ[0..23]` (slots 2 to 25) hold after the n-th reset, until a rule
writes them: unspecified (10_state.md R29, U13).  Log 4. -/
opaque unspecifiedPattern : Nat → Nat → Pattern

end Sys2Proof.Config
end

