-- ==== Sys2Proof/Machine/Params.lean ====
section
/-! DEFINITION. The parameters to which the spec gives a value (00_scope.md R6).  The open ones are in Config. -/

namespace Sys2Proof.Machine

/-- `FRAME_BITS` (R6). -/
def frameBits : Nat := 24

/-- `CHANNEL_MAX` (R6, 41_encoder.md R81). -/
def channelMax : Nat := 255

/-- `HUE_MAX` (R6, 40_normalizer.md R61). -/
def hueMax : Nat := 360

/-- `SECTOR_WIDTH` (R6, 40_normalizer.md R68). -/
def sectorWidth : Nat := 60

/-- `T0H_NS` (R6, 41_encoder.md R84). -/
def t0hNs : Nat := 400

/-- `T1H_NS` (R6, 41_encoder.md R84). -/
def t1hNs : Nat := 800

/-- `T0L_NS` (R6, 41_encoder.md R84). -/
def t0lNs : Nat := 850

/-- `T1L_NS` (R6, 41_encoder.md R84). -/
def t1lNs : Nat := 450

/-- Nanoseconds in a second, the dividend of `TICKNS` (41_encoder.md R83). -/
def nsPerSecond : Nat := 1000000000

/-- `NOMINAL_TICK_HZ` (R6): informative; no meaning uses it. -/
def nominalTickHz : U32 := 20000000

/-- The value the spec gives `CHANNEL_ROUNDING` and holds normative (R6, 40_normalizer.md R71, D8, 90_conflicts.md C1).
The setting of a run is the field `channelRounding` of State, and `NEAREST` its other value.  Log 5. -/
def channelRoundingDefault : Rounding := .trunc

/-- `WRITE_WAIT` (R6, 41_encoder.md R86, D14). -/
def writeWait : Bool := false

/-- The `loop_enabled` argument of `configure`, always `false` (41_encoder.md R82). -/
def loopEnabled : Bool := false

end Sys2Proof.Machine
end

