-- ==== Sys2Proof/Machine/Float64.lean ====
section
/-! DEFINITION. Binary64 arithmetic as the spec binds it: every operation rounds its exact result once, to nearest,
ties to even (40_normalizer.md R62 to R64, R71).  A finite datum is a whole number of units of `2^-1074`. -/

namespace Sys2Proof.Machine

/-- The number of units of `2^-1074` in 1. -/
@[irreducible] def f64Unit : Nat := 2 ^ 1074

/-- The least magnitude, in units, that overflows: `2^1024`. -/
@[irreducible] def f64Limit : Nat := 2 ^ 2098

/-- The magnitudes binary64 has: a 53-bit significand times a power of two (in units of `2^-1074`, so the exponent is
not negative), below the overflow limit. -/
def RepresentableMag (mag : Nat) : Prop := mag < f64Limit ∧ ∃ m e : Nat, m < 2 ^ 53 ∧ mag = m * 2 ^ e

/-- A datum that is a binary64 value. -/
def Representable : F64 → Prop
  | .nan       => True
  | .inf _     => True
  | .fin _ mag => RepresentableMag mag

/-- `n / d` rounded to the nearest integer, a tie to the even one. -/
def roundDivEven (n d : Nat) : Nat :=
  if 2 * (n % d) < d then n / d
  else if d < 2 * (n % d) then n / d + 1
  else n / d + n / d % 2

/-- The exponent (of the unit in the last place, in units of `2^-1074`) at which `num / den` is rounded: 53 significant
bits, or fewer for a subnormal. -/
def roundExponent (num den : Nat) : Nat := (num / den).log2 - 52

/-- The magnitude `num / den` rounded to 53 significant bits, ties to even, without the overflow test. -/
def roundMagnitude (num den : Nat) : Nat :=
  roundDivEven num (den * 2 ^ roundExponent num den) * 2 ^ roundExponent num den

/-- `± num / den` units rounded to binary64 (R64: "the exact real result rounded once to the nearest binary64 value,
ties to the value with an even last fraction bit"); an overflow gives an infinity: PRESUMED (log 21). -/
def f64Round (neg : Bool) (num den : Nat) : F64 :=
  if roundMagnitude num den < f64Limit then .fin neg (roundMagnitude num den) else .inf neg

/-- The datum of a 64-bit pattern: sign at bit 63, exponent 62:52, fraction 51:0 (20_memory.md R34). -/
def f64OfBits (b : U64) : F64 :=
  let neg := b.getLsbD 63
  let ex := (b.extractLsb' 52 11).toNat
  let frac := (b.extractLsb' 0 52).toNat
  if ex = 2047 then (if frac = 0 then .inf neg else .nan)
  else if ex = 0 then .fin neg frac
  else .fin neg ((2 ^ 52 + frac) * 2 ^ (ex - 1))

/-- The 64-bit pattern of a datum (20_memory.md R34); `nan` is written as `0x7FF8000000000000` (30_encoding.md R57).
Only the assembler syntax uses it. -/
def f64ToBits : F64 → U64
  | .nan         => 0x7FF8000000000000
  | .inf neg     => (if neg then 0x8000000000000000 else 0) ||| 0x7FF0000000000000
  | .fin neg mag =>
    (if neg then 0x8000000000000000 else 0) |||
      BitVec.ofNat 64 ((mag.log2 - 52) * 2 ^ 52 + mag / 2 ^ (mag.log2 - 52))

/-- The constants `0.0`, `1.0`, `2.0`, `60.0`, `255.0`: exact (R64). -/
def f64OfNat (n : Nat) : F64 := .fin false (n * f64Unit)

/-- `u32_to_f64(n)`: exact (R63). -/
def u32ToF64 (n : U32) : F64 := f64OfNat n.toNat

/-- The value of a finite datum in units, signed. -/
def signedUnits (neg : Bool) (mag : Nat) : Int := if neg then -(mag : Int) else mag

/-- `f64_gt(a, b)`: the quiet comparison, false when either side is a NaN; the two zeros are equal (R62). -/
def f64Gt : F64 → F64 → Bool
  | .nan, _ => false
  | _, .nan => false
  | .inf na, .inf nb => !na && nb
  | .inf na, .fin _ _ => !na
  | .fin _ _, .inf nb => nb
  | .fin na a, .fin nb b => decide (signedUnits nb b < signedUnits na a)

/-- The datum with the opposite sign. -/
def f64Neg : F64 → F64
  | .nan         => .nan
  | .inf neg     => .inf (!neg)
  | .fin neg mag => .fin (!neg) mag

/-- `f64_abs(a)`: the sign cleared (R64). -/
def f64Abs : F64 → F64
  | .nan       => .nan
  | .inf _     => .inf false
  | .fin _ mag => .fin false mag

/-- `f64_add(a, b)` (R64).  An exact zero sum is `+0.0` unless both operands are negative (zeros). -/
def f64Add : F64 → F64 → F64
  | .nan, _ => .nan
  | _, .nan => .nan
  | .inf na, .inf nb => if na = nb then .inf na else .nan
  | .inf na, .fin _ _ => .inf na
  | .fin _ _, .inf nb => .inf nb
  | .fin na a, .fin nb b =>
    let sum := signedUnits na a + signedUnits nb b
    if sum = 0 then .fin (na && nb) 0 else f64Round (decide (sum < 0)) sum.natAbs 1

/-- `f64_sub(a, b)` (R64): the sum with the opposite of `b`; `x - x` is `+0.0`. -/
def f64Sub (a b : F64) : F64 := f64Add a (f64Neg b)

/-- `f64_mul(a, b)` (R64): `inf * 0` is a NaN; a product has the sign its operands' signs give, a zero too. -/
def f64Mul : F64 → F64 → F64
  | .nan, _ => .nan
  | _, .nan => .nan
  | .inf na, .inf nb => .inf (na != nb)
  | .inf na, .fin nb b => if b = 0 then .nan else .inf (na != nb)
  | .fin na a, .inf nb => if a = 0 then .nan else .inf (na != nb)
  | .fin na a, .fin nb b => f64Round (na != nb) (a * b) f64Unit

/-- `f64_div(a, b)` (R64).  The block divides by `60.0` only; the other cases are IEEE 754's.  PRESUMED (log 21). -/
def f64Div : F64 → F64 → F64
  | .nan, _ => .nan
  | _, .nan => .nan
  | .inf _, .inf _ => .nan
  | .inf na, .fin nb _ => .inf (na != nb)
  | .fin na _, .inf nb => .fin (na != nb) 0
  | .fin na a, .fin nb b =>
    if b = 0 then (if a = 0 then .nan else .inf (na != nb))
    else f64Round (na != nb) (a * f64Unit) b

/-- `f64_fmod(a, b)` (R64): the remainder of the truncated quotient, exact, with the sign of `a`.  The block uses it
with `b = 2.0` only; the other cases are IEEE 754's.  PRESUMED (log 21). -/
def f64Fmod : F64 → F64 → F64
  | .nan, _ => .nan
  | _, .nan => .nan
  | .inf _, _ => .nan
  | .fin na a, .inf _ => .fin na a
  | .fin na a, .fin _ b => if b = 0 then .nan else .fin na (a % b)

/-- The integer magnitude that R71 takes: `TRUNC` cuts the fraction off, `NEAREST` takes the nearest integer, a tie
going away from zero. -/
def integerMagnitude (mode : Rounding) (mag : Nat) : Nat :=
  match mode with
  | .trunc   => mag / f64Unit
  | .nearest => (2 * mag + f64Unit) / (2 * f64Unit)

/-- `f2u(p)` where R71 gives it; `none` where R72 makes it a draw: a NaN, an infinity, an integer below 0 or above
`2^32 - 1`. -/
def f2u (mode : Rounding) : F64 → Option U32
  | .nan   => none
  | .inf _ => none
  | .fin neg mag =>
    let n := integerMagnitude mode mag
    if n < 2 ^ 32 ∧ ¬ (neg = true ∧ 0 < n) then some (BitVec.ofNat 32 n) else none

end Sys2Proof.Machine
end

