-- ==== Sys2Proof/Machine/State.lean ====
section
/-! DEFINITION. The state of the colour block, everything spec/10_state.md gives it, and the inputs of a run
(93_implementation_defined.md section 3).  Plain data. -/

namespace Sys2Proof.Machine

/-- `PHASE` (10_state.md R13): the block's sequencing state, in place of a program counter. -/
inductive Phase where
  | idle | converting | configuring | encoding | transmitting | tornDown | fault
deriving DecidableEq, Repr

/-- The outcome of a command (60_exceptions.md R113). -/
inductive CmdOutcome where
  | ok | invalidArgument | peripheralError | tickFault
deriving DecidableEq, Repr

/-- The four interface operations that can fail (60_exceptions.md R117); the label of `PeripheralError` (R114). -/
inductive FailingStep where
  | configure | install | write | uninstall
deriving DecidableEq, Repr

/-- What a rule raises (00_scope.md R8, 60_exceptions.md R113 to R121). -/
inductive CmdError where
  | invalidArgument
  | peripheralError (step : FailingStep)
  | tickFault
deriving DecidableEq, Repr

/-- An interface operation with its arguments (42_peripheral_interface.md R100 to R105). -/
inductive PeriphOp where
  | configure (outputPin channelId clockDivider : Nat) (loopEnabled : Bool)
  | install (channelId : Nat)
  | getClockFrequency (channelId : Nat)
  | write (channelId : Nat) (seq : PulseSequence) (wait : Bool)
  | uninstall (channelId : Nat)
deriving DecidableEq, Repr

/-- `ok` or `err`: the answer of the four operations that return a `Result` (R100). -/
inductive Ack where
  | ok | err
deriving DecidableEq, Repr

/-- An answer of the peripheral (R100). -/
inductive Answer where
  | ack (a : Ack)
  | hz (f : U32)
deriving DecidableEq, Repr

/-- An event of the run (42_peripheral_interface.md R111), and a reset (93_implementation_defined.md section 3,
item 6).  DESIGN CHOICE (log 12): `accept` carries the decoded command, so the ignored bits of R50 are not seen. -/
inductive Event where
  | accept (i : Instr)
  | periph (op : PeriphOp) (answer : Answer)
  | complete (o : CmdOutcome)
  | fatal (e : CmdError)
  | reset
deriving DecidableEq, Repr

/-- What the command in progress does in its next step: "it executes one command at a time, from acceptance to
completion, as a fixed sequence of steps" (10_state.md R10).  `PHASE` alone does not tell: both `configure` and
`install` are issued in `Configuring`. -/
inductive CommandStep where
  /-- The operation is issued; the next step of the block is its answer (42_peripheral_interface.md R100, R108). -/
  | ask (op : PeriphOp)
  /-- `complete(status)` (10_state.md R17). -/
  | complete (o : CmdOutcome)
  /-- A fatal error was raised (60_exceptions.md R118, R121). -/
  | fatal (e : CmdError)
deriving DecidableEq, Repr

/-- The operand registers and the operation latch (10_state.md R12). -/
structure OperandRegs where
  op : BitVec 2
  h : U32
  s : U64
  v : U64
  r : U32
  g : U32
  b : U32
deriving DecidableEq, Repr

/-- `ROUT`, `GOUT`, `BOUT` (10_state.md R16). -/
structure ResultRegs where
  rout : U32
  gout : U32
  bout : U32
deriving DecidableEq, Repr

/-- The normalizer's ten working registers (10_state.md R19). -/
structure NormRegs where
  c : F64
  hq : F64
  hm : F64
  t : F64
  k : F64
  x : F64
  m : F64
  rp : F64
  gp : F64
  bp : F64
deriving DecidableEq, Repr

/-- The encoder's working registers (10_state.md R14, R20 to R23). -/
structure EncRegs where
  freq : U32
  tickNs : U32
  pat0 : Pattern
  pat1 : Pattern
  seq : PulseSequence
  w : FrameWord
  i : BitVec 5
deriving DecidableEq, Repr

/-- The host's side: the words it has still to present, in order, and its reset request
(93_implementation_defined.md section 3, items 1 and 6).  Inputs of a run.  Log 6, log 8. -/
structure HostPort where
  cmds : List CmdWord
  resetReq : Bool
deriving DecidableEq, Repr

/-- The peripheral's condition as far as its answers tell (10_state.md R26, 60_exceptions.md R121,
70_reset_and_hazards.md R148).  Log 11. -/
inductive PeriphCondition where
  | unknown | configured | installed | released
deriving DecidableEq, Repr

/-- The interface to the peripheral.  `acks` and `freqs` are inputs of a run: the answers still to come
(93_implementation_defined.md section 3, items 2 and 3); an empty queue is an operation that has not answered
(42_peripheral_interface.md R108).  Log 2. -/
structure PeriphPort where
  acks : List Ack
  freqs : List U32
  condition : PeriphCondition
  frame : Option PulseSequence
deriving DecidableEq, Repr

/-- `LED` (10_state.md R27, 60_exceptions.md R133): environment state. -/
inductive Led where
  | unknown
  | rgb (r g b : U8)
deriving DecidableEq, Repr

/-- The assumptions about the environment that 60_exceptions.md R133 names (a), (b), (d); its (c) is about the tick
counts and is computed.  Inputs of a run; no step changes them.  Log 10. -/
structure LedAssumptions where
  frameCompletes : Bool
  withinTolerance : Bool
  readsGreenRedBlue : Bool
deriving DecidableEq, Repr

/-- The state of a run.  `todo` is the next step of the command in progress, `none` between commands.  `draws`, `resets`
and `trace` are the model's own fields (log 3, log 4, log 12).  `channelRounding` is the parameter `CHANNEL_ROUNDING`, "a
configuration value" (40_normalizer.md R71), fixed before a run: no step changes it (log 5). -/
structure State where
  phase : Phase
  todo : Option CommandStep
  fault : Bool
  status : BitVec 2
  operands : OperandRegs
  results : ResultRegs
  norm : NormRegs
  enc : EncRegs
  host : HostPort
  periph : PeriphPort
  led : Led
  ledAssumptions : LedAssumptions
  channelRounding : Rounding
  draws : Nat
  resets : Nat
  trace : List Event
deriving DecidableEq, Repr

/-- Why the block takes no step. -/
inductive Fault where
  /-- `FAULT = 1`: "the block takes no step and accepts no command" (60_exceptions.md R118, U5).  Raised by `step`
  without a reset request and by every command's meaning.  Safe: the model stops where the hardware stops. -/
  | halted
  /-- The outstanding interface operation has not answered: the block is stuck (42_peripheral_interface.md R108, U9).
  Raised by `step`.  Safe: the model stops where the hardware waits. -/
  | unanswered
deriving DecidableEq, Repr

/-- Why the model has no step for a command. -/
inductive Refusal where
  /-- The command has no meaning in the model yet.  Raised by a refused arm of `exec`.  Safe. -/
  | notModelled (mnemonic : String)
  /-- `op = 11` (30_encoding.md R51, U3).  Raised by `RESERVED_OP11`.  Safe: nothing is provable of such a run. -/
  | reservedOpcode
  /-- A command presented while another is in progress (30_encoding.md R45, U4).  Raised by every command's meaning.
  Safe: the host must not present it, and nothing is provable of such a run. -/
  | notIdle
deriving DecidableEq, Repr

/-- The outcome of a step of this machine. -/
abbrev StepOutcome := Host.Outcome State Fault Refusal

/-- The operand registers after the n-th reset: unspecified (10_state.md R29). -/
def OperandRegs.unspecified (n : Nat) : OperandRegs where
  op := (Config.unspecified .OP n).setWidth 2
  h := (Config.unspecified .H n).setWidth 32
  s := Config.unspecified .S n
  v := Config.unspecified .V n
  r := (Config.unspecified .R n).setWidth 32
  g := (Config.unspecified .G n).setWidth 32
  b := (Config.unspecified .B n).setWidth 32

/-- The result registers after the n-th reset: unspecified (10_state.md R29). -/
def ResultRegs.unspecified (n : Nat) : ResultRegs where
  rout := (Config.unspecified .ROUT n).setWidth 32
  gout := (Config.unspecified .GOUT n).setWidth 32
  bout := (Config.unspecified .BOUT n).setWidth 32

/-- The normalizer's registers after the n-th reset: unspecified (10_state.md R29). -/
def NormRegs.unspecified (n : Nat) : NormRegs where
  c := f64OfBits (Config.unspecified .C n)
  hq := f64OfBits (Config.unspecified .HQ n)
  hm := f64OfBits (Config.unspecified .HM n)
  t := f64OfBits (Config.unspecified .T n)
  k := f64OfBits (Config.unspecified .K n)
  x := f64OfBits (Config.unspecified .X n)
  m := f64OfBits (Config.unspecified .M n)
  rp := f64OfBits (Config.unspecified .RP n)
  gp := f64OfBits (Config.unspecified .GP n)
  bp := f64OfBits (Config.unspecified .BP n)

/-- The encoder's registers after the n-th reset: unspecified (10_state.md R29). -/
def EncRegs.unspecified (n : Nat) : EncRegs where
  freq := (Config.unspecified .FREQ n).setWidth 32
  tickNs := (Config.unspecified .TICKNS n).setWidth 32
  pat0 := Config.unspecifiedPattern 0 n
  pat1 := Config.unspecifiedPattern 1 n
  seq := Vector.ofFn fun i => Config.unspecifiedPattern (2 + i) n
  w := (Config.unspecified .W n).setWidth 24
  i := (Config.unspecified .I n).setWidth 5

/-- The block right after reset (70_reset_and_hazards.md R135, 10_state.md R29), at the start of a run: no event yet,
nothing presented, no answer to come.  The registers R29 leaves unspecified hold free values (log 4). -/
def State.reset : State where
  phase := .idle
  todo := none
  fault := false
  status := (Config.unspecified .STATUS 0).setWidth 2
  operands := .unspecified 0
  results := .unspecified 0
  norm := .unspecified 0
  enc := .unspecified 0
  host := { cmds := [], resetReq := false }
  periph := { acks := [], freqs := [], condition := .unknown, frame := none }
  led := .unknown
  ledAssumptions := { frameCompletes := false, withinTolerance := false, readsGreenRedBlue := false }
  channelRounding := channelRoundingDefault
  draws := 0
  resets := 0
  trace := []

end Sys2Proof.Machine
end

