-- ==== Sys2Proof/Machine/Flags.lean ====
section
/-! DEFINITION. The status codes and the one gate before every command: `STATUS` (10_state.md R15), `FAULT` (R18),
`accept` only when Idle (30_encoding.md R45). -/

namespace Sys2Proof.Machine

/-- The `STATUS` code of an outcome (10_state.md R15, 60_exceptions.md R113). -/
def CmdOutcome.code : CmdOutcome → BitVec 2
  | .ok              => 0
  | .invalidArgument => 1
  | .peripheralError => 2
  | .tickFault       => 3

/-- The outcome an error ends a command with (60_exceptions.md R113, R114: nothing but the kind is recorded). -/
def CmdError.outcome : CmdError → CmdOutcome
  | .invalidArgument   => .invalidArgument
  | .peripheralError _ => .peripheralError
  | .tickFault         => .tickFault

/-- A command is taken only when `PHASE = Idle` and `FAULT = 0` (30_encoding.md R45), and never before the last event of
the previous one (20_memory.md R39).  With `FAULT = 1` the block is stuck (R118, U5); while a command is in progress
the presentation has no step (U4).  Log 15, log 16. -/
def whenReady (s : State) (run : State → State) : StepOutcome :=
  if s.fault then .fault .halted
  else if s.phase = .idle ∧ s.todo = none then .next (run s)
  else .refused .notIdle

end Sys2Proof.Machine
end

