-- ==== Sys2Proof/Machine/Ops.lean ====
section
/-! DEFINITION. The shared operations: recording an event, completing a command, raising an error, reset, and
issuing one interface operation and its answer (10_state.md R17, 60_exceptions.md R116 to R121,
70_reset_and_hazards.md R135, 42_peripheral_interface.md R100). -/

namespace Sys2Proof.Machine

/-- The run's record gains an event (42_peripheral_interface.md R111). -/
def record (e : Event) (s : State) : State := { s with trace := s.trace ++ [e] }

/-- The command in progress goes on with this step. -/
def goOn (next : CommandStep) (s : State) : State := { s with todo := some next }

/-- An interface operation is issued; its answer is the block's next step (42_peripheral_interface.md R100). -/
def issue (op : PeriphOp) (s : State) : State := goOn (.ask op) s

/-- The LED after a completed transmission (60_exceptions.md R133): the colour under its four assumptions, the third
of which is about the tick counts; otherwise unknown. -/
def ledAfterOk (s : State) : Led :=
  if s.ledAssumptions.frameCompletes && s.ledAssumptions.withinTolerance && s.ledAssumptions.readsGreenRedBlue
      && decide (s.enc.pat0.high ≠ 0 ∧ s.enc.pat0.low ≠ 0 ∧ s.enc.pat1.high ≠ 0 ∧ s.enc.pat1.low ≠ 0
        ∧ s.enc.pat0 ≠ s.enc.pat1)
  then .rgb (s.operands.r.setWidth 8) (s.operands.g.setWidth 8) (s.operands.b.setWidth 8)
  else .unknown

/-- The LED after a command without a fatal error (60_exceptions.md R133): only an `OK` after the release of the
peripheral changes it. -/
def ledAfterCommand (o : CmdOutcome) (s : State) : Led :=
  if o = .ok ∧ s.phase = .tornDown then ledAfterOk s else s.led

/-- The step `complete(status)`: `STATUS <- status; PHASE <- Idle`, an event (10_state.md R17). -/
def complete (o : CmdOutcome) (s : State) : State :=
  record (.complete o) { s with status := o.code, phase := .idle, todo := none, led := ledAfterCommand o s }

/-- The peripheral's condition after a fatal error: unknown after a `PeripheralError` (U10), left installed by a
`TickFault` (60_exceptions.md R121). -/
def conditionAfter (e : CmdError) (c : PeriphCondition) : PeriphCondition :=
  match e with
  | .invalidArgument   => c
  | .peripheralError _ => .unknown
  | .tickFault         => c

/-- The step of a fatal error: `STATUS <- code; FAULT <- 1; PHASE <- Fault`, no `complete` (60_exceptions.md R118,
R121); nothing is saved, for there is no handler to return from (R124); the LED is unknown afterwards (R133). -/
def enterFault (e : CmdError) (s : State) : State :=
  record (.fatal e)
    { s with
      status := e.outcome.code
      fault := true
      phase := .fault
      todo := none
      led := .unknown
      periph := { s.periph with condition := conditionAfter e s.periph.condition } }

/-- `raise`: the one place where a command turns to an error: the next step ends it with `complete(InvalidArgument)`
(60_exceptions.md R116) or with the fatal error (R118, R121).  Nothing else happens before that step. -/
def raise (e : CmdError) (s : State) : State :=
  match e with
  | .invalidArgument   => goOn (.complete .invalidArgument) s
  | .peripheralError _ => goOn (.fatal e) s
  | .tickFault         => goOn (.fatal e) s

/-- Reset, the only way on after a fatal error (60_exceptions.md R125): `PHASE <- Idle; FAULT <- 0`, every other
register unspecified, no interface operation (70_reset_and_hazards.md R135, 10_state.md R29).  The words and answers
still to come, the parameter `CHANNEL_ROUNDING`, the environment's assumptions and the run's record are no registers of
the block and stay. -/
def applyReset (s : State) : State :=
  record .reset
    { s with
      phase := .idle
      todo := none
      fault := false
      status := (Config.unspecified .STATUS (s.resets + 1)).setWidth 2
      operands := .unspecified (s.resets + 1)
      results := .unspecified (s.resets + 1)
      norm := .unspecified (s.resets + 1)
      enc := .unspecified (s.resets + 1)
      host := { s.host with resetReq := false }
      periph := { s.periph with condition := .unknown, frame := none }
      led := .unknown
      resets := s.resets + 1 }

/-- The step of an outstanding operation that answers `ok` or `err`: the answered operation is an event of the run with
its arguments and its answer (42_peripheral_interface.md R100), and `next` says how the command goes on.  With no
answer there the block is stuck (R108). -/
def answerAck (op : PeriphOp) (next : Ack → State → State) (s : State) : StepOutcome :=
  match s.periph.acks with
  | []        => .fault .unanswered
  | a :: rest => .next (next a (record (.periph op (.ack a)) { s with periph := { s.periph with acks := rest } }))

/-- The step of an outstanding query, which answers a frequency (42_peripheral_interface.md R103), as `answerAck`. -/
def answerHz (op : PeriphOp) (next : U32 → State → State) (s : State) : StepOutcome :=
  match s.periph.freqs with
  | []        => .fault .unanswered
  | f :: rest => .next (next f (record (.periph op (.hz f)) { s with periph := { s.periph with freqs := rest } }))

/-- The host-readable registers (10_state.md R24); the command word is not one of them. -/
inductive HostReg where
  | status | rout | gout | bout
deriving DecidableEq, Repr

/-- A host read (10_state.md R24): read-only, no effect.  `STATUS` is its two bits, zero-extended.  DESIGN CHOICE
(log 24). -/
def hostRead (reg : HostReg) (s : State) : U32 :=
  match reg with
  | .status => s.status.setWidth 32
  | .rout   => s.results.rout
  | .gout   => s.results.gout
  | .bout   => s.results.bout

/-- Ownership of the peripheral (10_state.md R26(b)). -/
inductive Ownership where
  | notOwned | owned | undefined
deriving DecidableEq, Repr

/-- "No register records this, `PHASE` implies it" (10_state.md R26(b)); `owned` covers being acquired or released. -/
def State.ownership (s : State) : Ownership :=
  match s.phase with
  | .idle         => .notOwned
  | .converting   => .notOwned
  | .configuring  => .owned
  | .encoding     => .owned
  | .transmitting => .owned
  | .tornDown     => .owned
  | .fault        => .undefined

end Sys2Proof.Machine
end

