-- ==== Sys2Proof/Machine/Operands.lean ====
section
/-! DEFINITION. Operands: what `accept` latches from a command (30_encoding.md R45, R47, R48) and the two validations
(40_normalizer.md R61, 41_encoder.md R81). -/

namespace Sys2Proof.Machine

/-- The operand registers of the command's format, each written whole; the others keep their values (30_encoding.md
R45, R47, R48).  The reserved operation has no `accept` (R51) and latches nothing. -/
def latchOperands (i : Instr) (regs : OperandRegs) : OperandRegs :=
  match i with
  | .setrgb r g b  => { regs with op := 0, r := r, g := g, b := b }
  | .sethsv h s v  => { regs with op := 1, h := h, s := s, v := v }
  | .hsv2rgb h s v => { regs with op := 2, h := h, s := s, v := v }
  | .reservedOp11  => regs

/-- `accept(cmd)`: operands are sampled once (20_memory.md R42), and it is an event (42_peripheral_interface.md R111). -/
def accept (i : Instr) (s : State) : State :=
  record (.accept i) { s with operands := latchOperands i s.operands }

/-- The condition of R61: `H > 360`, `S > 1.0` or `V > 1.0`.  Nothing else is checked. -/
def hsvRejected (h : U32) (s v : F64) : Bool :=
  decide (hueMax < h.toNat) || f64Gt s (f64OfNat 1) || f64Gt v (f64OfNat 1)

/-- The condition of R81: some channel exceeds 255. -/
def rgbRejected (r g b : U32) : Bool :=
  decide (channelMax < r.toNat) || decide (channelMax < g.toNat) || decide (channelMax < b.toNat)

end Sys2Proof.Machine
end

