-- ==== Sys2Proof/Machine/Normalizer.lean ====
section
/-! DEFINITION. The Color Normalizer: `HSV2RGB` and the conversion half of `SETHSV` (40_normalizer.md R60 to R74). -/

namespace Sys2Proof.Machine

/-- The sector table (R69), the row chosen by the hue alone (R68).  Used only for `H <= 360`. -/
def sectorRow (h : U32) (c x : F64) : F64 × F64 × F64 :=
  let zero := f64OfNat 0
  if h.toNat < sectorWidth then (c, x, zero)
  else if h.toNat < 2 * sectorWidth then (x, c, zero)
  else if h.toNat < 3 * sectorWidth then (zero, c, x)
  else if h.toNat < 4 * sectorWidth then (zero, x, c)
  else if h.toNat < 5 * sectorWidth then (x, zero, c)
  else (c, zero, x)

/-- The working registers of a conversion, each operation rounding on its own, in the order of R65 to R69. -/
def normalize (h : U32) (s v : F64) : NormRegs :=
  let c := f64Mul s v
  let hq := f64Div (u32ToF64 h) (f64OfNat 60)
  let hm := f64Fmod hq (f64OfNat 2)
  let t := f64Abs (f64Sub hm (f64OfNat 1))
  let k := f64Sub (f64OfNat 1) t
  let x := f64Mul c k
  let m := f64Sub v c
  let row := sectorRow h c x
  { c := c, hq := hq, hm := hm, t := t, k := k, x := x, m := m, rp := row.1, gp := row.2.1, bp := row.2.2 }

/-- `(channel' + m) * 255` before its conversion (R70): the sum first, then the product. -/
def preConversion (ch m : F64) : F64 := f64Mul (f64Add ch m) (f64OfNat 255)

/-- The conversion of one channel, and how many draws have been made after it: the value of R71 where there is one,
else the next draw (R72). -/
def channelValue (mode : Rounding) (p : F64) (draws : Nat) : U32 × Nat :=
  match f2u mode p with
  | some c => (c, draws)
  | none   => (Config.drawU32 draws, draws + 1)

/-- The three channels in the order of R70 and the draws made after them. -/
def channelValues (mode : Rounding) (n : NormRegs) (draws : Nat) : ResultRegs × Nat :=
  let r := channelValue mode (preConversion n.rp n.m) draws
  let g := channelValue mode (preConversion n.gp n.m) r.2
  let b := channelValue mode (preConversion n.bp n.m) g.2
  ({ rout := r.1, gout := g.1, bout := b.1 }, b.2)

/-- The conversion of the latched operands: the working registers, `ROUT`, `GOUT`, `BOUT` (R73) and the draws,
under the run's `CHANNEL_ROUNDING` (R71). -/
def convert (s : State) : State :=
  let n := normalize s.operands.h (f64OfBits s.operands.s) (f64OfBits s.operands.v)
  let out := channelValues s.channelRounding n s.draws
  { s with norm := n, results := out.1, draws := out.2 }

/-- Validate, then convert and go on with `next`; a rejected command ends in `InvalidArgument` (R61, R73, R74). -/
def convertThen (next : State → State) (s : State) : State :=
  let s := { s with phase := .converting }
  if hsvRejected s.operands.h (f64OfBits s.operands.s) (f64OfBits s.operands.v) then raise .invalidArgument s
  else next (convert s)

/-- `HSV2RGB h, s, v` (R74): taken and converted; the next step is `complete`. -/
def execHsv2rgb (h : U32) (sat val : U64) (s : State) : StepOutcome :=
  whenReady s fun s => convertThen (goOn (.complete .ok)) (accept (.hsv2rgb h sat val) s)

/-- In contract: `h` in [0, 360], `s` and `v` in [0.0, 1.0], neither a NaN; `-0.0` is in contract (00_scope.md R9,
40_normalizer.md R78). -/
def f64InUnit : F64 → Bool
  | .nan         => false
  | .inf _       => false
  | .fin neg mag => (!neg || decide (mag = 0)) && decide (mag ≤ f64Unit)

/-- An HSV triple in contract (00_scope.md R9). -/
def hsvInContract (h : U32) (s v : U64) : Bool :=
  decide (h.toNat ≤ hueMax) && f64InUnit (f64OfBits s) && f64InUnit (f64OfBits v)

end Sys2Proof.Machine
end

