-- ==== Sys2Proof/Machine/Encoder.lean ====
section
/-! DEFINITION. The Bit-Pulse Encoder & Transmitter: `SETRGB` and `SETHSV` (41_encoder.md R80 to R99) over the
peripheral's interface (42_peripheral_interface.md R100 to R111).  A meaning is the step `accept` and
issues the first operation; every answer is a step of its own and issues the next (R100).  What is computed between two
events is done in the step of the first: DESIGN CHOICE (log 1). -/

namespace Sys2Proof.Machine

/-- `Periph.configure(OUTPUT_PIN, CHANNEL_ID, CLOCK_DIVIDER, false)` (R82, R101). -/
def configureOp : PeriphOp := .configure Config.outputPin Config.channelId Config.clockDivider loopEnabled

/-- `Periph.install(CHANNEL_ID)` (R82, R102). -/
def installOp : PeriphOp := .install Config.channelId

/-- `Periph.get_clock_frequency(CHANNEL_ID)` (R83, R103). -/
def clockOp : PeriphOp := .getClockFrequency Config.channelId

/-- `Periph.write(CHANNEL_ID, SEQ[0..23], wait = false)` (R86, R104). -/
def writeOp (seq : PulseSequence) : PeriphOp := .write Config.channelId seq writeWait

/-- `Periph.uninstall(CHANNEL_ID)` (R87, R105). -/
def uninstallOp : PeriphOp := .uninstall Config.channelId

/-- The tick duration in whole nanoseconds (R83): `1000000000 div FREQ`, for `FREQ > 0`. -/
@[irreducible] def tickDuration (freq : U32) : U32 := BitVec.ofNat 32 (nsPerSecond / freq.toNat)

/-- Pattern '0' (R84). -/
def pattern0 (tickNs : U32) : Pattern := { high := t0hNs / tickNs.toNat, low := t0lNs / tickNs.toNat }

/-- Pattern '1' (R84). -/
def pattern1 (tickNs : U32) : Pattern := { high := t1hNs / tickNs.toNat, low := t1lNs / tickNs.toNat }

/-- The table entry a bit selects (10_state.md R21). -/
def EncRegs.pat (e : EncRegs) (bit : Bool) : Pattern := if bit then e.pat1 else e.pat0

/-- The frame word `G[7:0] ‖ R[7:0] ‖ B[7:0]` (R85, 10_state.md R23). -/
def frameWord (r g b : U32) : FrameWord := g.extractLsb' 0 8 ++ r.extractLsb' 0 8 ++ b.extractLsb' 0 8

/-- The byte that position `i` of the frame carries: green for 0 to 7, red for 8 to 15, blue for 16 to 23 (R85). -/
def frameByte (r g b : U32) (i : Nat) : U32 := if i / 8 = 0 then g else if i / 8 = 1 then r else b

/-- The bit of the frame at position `i`: bit `7 - (i mod 8)` of its byte (R85). -/
def frameBit (r g b : U32) (i : Nat) : Bool := (frameByte r g b i).getLsbD (7 - i % 8)

/-- One round of the loop of R85: `SEQ[I] <- PAT[bit]; I <- I + 1`. -/
def serialiseRound (r g b : U32) (e : EncRegs) : EncRegs :=
  { e with
    seq := e.seq.setIfInBounds e.i.toNat (e.pat (frameBit r g b e.i.toNat))
    i := e.i + 1 }

/-- `n` rounds of the loop of R85. -/
def serialiseRounds (r g b : U32) : Nat → EncRegs → EncRegs
  | 0, e     => e
  | n + 1, e => serialiseRounds r g b n (serialiseRound r g b e)

/-- The loop of R85: `W` loaded, `I <- 0`, exactly 24 rounds. -/
@[irreducible] def serialise (r g b : U32) (e : EncRegs) : EncRegs :=
  serialiseRounds r g b frameBits { e with w := frameWord r g b, i := 0 }

/-- After `uninstall`'s answer (R87, R88). -/
def onUninstall (a : Ack) (s : State) : State :=
  match a with
  | .ok  => goOn (.complete .ok) { s with periph := { s.periph with condition := .released } }
  | .err => raise (.peripheralError .uninstall) s

/-- Release (R87): `PHASE <- TornDown`, `uninstall`. -/
def startUninstall (s : State) : State := issue uninstallOp { s with phase := .tornDown }

/-- After `write`'s answer (R86): released at once when it was accepted (R87), never after a failure (R107). -/
def onWrite (a : Ack) (s : State) : State :=
  match a with
  | .ok  => startUninstall { s with periph := { s.periph with frame := some s.enc.seq } }
  | .err => raise (.peripheralError .write) s

/-- Submission (R86): `PHASE <- Transmitting`, `write` of the whole sequence. -/
def startWrite (s : State) : State := issue (writeOp s.enc.seq) { s with phase := .transmitting }

/-- The pattern table and the sequence from the tick duration and the validated channels (R84, R85). -/
def buildFrame (s : State) : State :=
  { s with
    enc := serialise s.operands.r s.operands.g s.operands.b
      { s.enc with pat0 := pattern0 s.enc.tickNs, pat1 := pattern1 s.enc.tickNs } }

/-- After `get_clock_frequency`'s answer (R83 to R85, R93): a `TickFault` at the first division without a result. -/
def onFrequency (f : U32) (s : State) : State :=
  let s := { s with enc := { s.enc with freq := f } }
  if f = 0 then raise .tickFault s
  else
    let s := { s with enc := { s.enc with tickNs := tickDuration f } }
    if s.enc.tickNs = 0 then raise .tickFault s else startWrite (buildFrame s)

/-- Clock query (R83): `PHASE <- Encoding`, `get_clock_frequency`. -/
def startEncoding (s : State) : State := issue clockOp { s with phase := .encoding }

/-- After `install`'s answer (R82). -/
def onInstall (a : Ack) (s : State) : State :=
  match a with
  | .ok  => startEncoding { s with periph := { s.periph with condition := .installed } }
  | .err => raise (.peripheralError .install) s

/-- `install`, in `PHASE = Configuring` (R82). -/
def startInstall (s : State) : State := issue installOp s

/-- After `configure`'s answer (R82). -/
def onConfigure (a : Ack) (s : State) : State :=
  match a with
  | .ok  => startInstall { s with periph := { s.periph with condition := .configured } }
  | .err => raise (.peripheralError .configure) s

/-- Acquisition (R82): `PHASE <- Configuring`, `configure`.  DESIGN CHOICE (log 10): from the first interface
operation on nothing is known of the LED until the command's outcome says it. -/
def startConfigure (s : State) : State :=
  issue configureOp { s with phase := .configuring, led := .unknown }

/-- `ENCODE_AND_SEND` of R89: validation first (R81), nothing of the peripheral is touched before it passes. -/
def encodeAndSend (s : State) : State :=
  if rgbRejected s.operands.r s.operands.g s.operands.b then raise .invalidArgument s else startConfigure s

/-- The hand-over of R90: `R <- ROUT; G <- GOUT; B <- BOUT`. -/
def handOver (s : State) : State :=
  { s with operands := { s.operands with r := s.results.rout, g := s.results.gout, b := s.results.bout } }

/-- `SETRGB r, g, b` (R89): taken, validated and `configure` issued, or turned to `InvalidArgument`. -/
def execSetrgb (r g b : U32) (s : State) : StepOutcome :=
  whenReady s fun s => encodeAndSend (accept (.setrgb r g b) s)

/-- `SETHSV h, s, v` (R90): taken, converted, handed over, and then as `SETRGB`. -/
def execSethsv (h : U32) (sat val : U64) (s : State) : StepOutcome :=
  whenReady s fun s =>
    convertThen (fun s => encodeAndSend (handOver s)) (accept (.sethsv h sat val) s)

/-- The step of an outstanding operation, as R89 lists what follows each answer. -/
def answer (op : PeriphOp) (s : State) : StepOutcome :=
  match op with
  | .configure _ _ _ _   => answerAck op onConfigure s
  | .install _           => answerAck op onInstall s
  | .getClockFrequency _ => answerHz op onFrequency s
  | .write _ _ _         => answerAck op onWrite s
  | .uninstall _         => answerAck op onUninstall s

/-- The next step of the command in progress: one event (42_peripheral_interface.md R100, 10_state.md R17). -/
def advance (next : CommandStep) (s : State) : StepOutcome :=
  match next with
  | .ask op     => answer op s
  | .complete o => .next (complete o s)
  | .fatal e    => .next (enterFault e s)

end Sys2Proof.Machine
end

