-- ==== Sys2Proof/Machine/Reserved.lean ====
section
/-! DEFINITION. The reserved operation `op = 11` (30_encoding.md R51). -/

namespace Sys2Proof.Machine

/-- `op = 11`: "a model **refuses** it (it is not a command; the model has no step for its `accept`)" (R51, U3).
While `FAULT = 1` the block is stuck all the same (R118).  Log 14. -/
def execReservedOp11 (s : State) : StepOutcome :=
  if s.fault then .fault .halted else .refused .reservedOpcode

end Sys2Proof.Machine
end

