-- ==== Sys2Proof/Machine/Fetch.lean ====
section
/-! DEFINITION. How a command word reaches the block: nothing is fetched from a memory (10_state.md R13), the host
presents words (30_encoding.md R45). -/

namespace Sys2Proof.Machine

/-- The next word the host presents, decoded, and the host's queue without it; `none` when it presents nothing. -/
def nextCommand (s : State) : Option (Instr × State) :=
  match s.host.cmds with
  | []        => none
  | w :: rest => some (decode w, { s with host := { s.host with cmds := rest } })

/-- The state with a table word presented next, in a block ready to take it (log 7). -/
def presentWord (s : State) (nbits w : Nat) : State :=
  { s with
    phase := .idle
    todo := none
    fault := false
    host := { cmds := tableWord nbits w :: s.host.cmds, resetReq := false } }

end Sys2Proof.Machine
end

