-- ==== Sys2Proof/Machine/Dispatch.lean ====
section
/-! DEFINITION. One arm per command. -/

namespace Sys2Proof.Machine

def exec (i : Instr) (s : State) : Host.Outcome State Fault Refusal :=
  match i with
  | .setrgb r g b => Sys2Proof.Machine.execSetrgb r g b s
  | .sethsv h sat val => Sys2Proof.Machine.execSethsv h sat val s
  | .hsv2rgb h sat val => Sys2Proof.Machine.execHsv2rgb h sat val s
  | .reservedOp11 => Sys2Proof.Machine.execReservedOp11 s

end Sys2Proof.Machine
end

