-- ==== Sys2Proof/Machine/Step.lean ====
section
/-! DEFINITION. One step of the block (10_state.md R10, R13). -/

namespace Sys2Proof.Machine

/-- One step: a requested reset (70_reset_and_hazards.md R135); nothing while `FAULT = 1` (10_state.md R18); a command
in progress takes its next step, one event (42_peripheral_interface.md R100, R108); between commands the next word the
host presents is taken (30_encoding.md R45), and with none presented the block waits unchanged (10_state.md R29).
DESIGN CHOICE (log 6, log 8): the queue of words, and that a reset comes before anything else. -/
def step (s : State) : Host.Outcome State Fault Refusal :=
  if s.host.resetReq then .next (applyReset s)
  else if s.fault then .fault .halted
  else
    match s.todo with
    | some next => advance next s
    | none =>
      match nextCommand s with
      | none         => .next s
      | some (i, s') => exec i s'

/-- The state with a table word where the next step takes its command from. -/
def State.withFetchWord (s : State) (nbits w : Nat) : State := presentWord s nbits w

end Sys2Proof.Machine
end

