-- ==== Sys2Proof/Machine/Assembly.lean ====
section
/-! DEFINITION. The one-line assembler syntax (30_encoding.md R57): a mnemonic and three operands separated by commas.
A notation for command words; no meaning of the machine uses it. -/

namespace Sys2Proof.Machine

/-- A literal for an `f64` operand (R57). -/
inductive F64Literal where
  /-- `± digits · 10^-scale`. -/
  | decimal (neg : Bool) (digits scale : Nat)
  /-- `f64:0x` and 16 hexadecimal digits. -/
  | bits (b : U64)
  | inf (neg : Bool)
  | nan
deriving DecidableEq, Repr

/-- The pattern a literal stands for: a decimal literal "stands for the binary64 value nearest to it, ties to even";
`nan` for `0x7FF8000000000000` (R57). -/
def F64Literal.pattern : F64Literal → U64
  | .decimal neg digits scale => f64ToBits (f64Round neg (digits * f64Unit) (10 ^ scale))
  | .bits b  => b
  | .inf neg => f64ToBits (.inf neg)
  | .nan     => f64ToBits .nan

/-- The value of a digit in a base, for the digits `0` to `9`, `a` to `f`, `A` to `F`. -/
def digitValue (base : Nat) (c : Char) : Option Nat :=
  let n := c.toNat
  let v := if 48 ≤ n ∧ n ≤ 57 then n - 48
    else if 97 ≤ n ∧ n ≤ 102 then n - 87
    else if 65 ≤ n ∧ n ≤ 70 then n - 55
    else base
  if v < base then some v else none

/-- The number a non-empty list of digits spells. -/
def digitsValue (base : Nat) : List Char → Option Nat
  | [] => none
  | cs => cs.foldlM (fun acc c => (digitValue base c).map (acc * base + ·)) 0

/-- The text without its blanks.  PRESUMED (log 20): blanks carry no meaning inside an operand list. -/
def dropBlanks (cs : List Char) : List Char := cs.filter fun c => c != ' '

/-- A number "below 2^32" (R57). -/
def fitsU32 (value : Option Nat) : Option U32 :=
  value.bind fun n => if n < 2 ^ 32 then some (BitVec.ofNat 32 n) else none

/-- A channel operand: "unsigned decimal or 0x hexadecimal, each below 2^32" (R57). -/
def parseChannel (cs : List Char) : Option U32 :=
  fitsU32 (match cs with
    | '0' :: 'x' :: hex => digitsValue 16 hex
    | _ => digitsValue 10 cs)

/-- A hue operand: "unsigned decimal below 2^32" (R57). -/
def parseHue (cs : List Char) : Option U32 := fitsU32 (digitsValue 10 cs)

/-- An unsigned decimal literal with or without a fraction: its digits and how many of them are fraction digits. -/
def parseDecimal (neg : Bool) (cs : List Char) : Option F64Literal :=
  match cs.span (· != '.') with
  | (whole, []) => (digitsValue 10 whole).map fun n => .decimal neg n 0
  | (whole, _ :: fraction) =>
    if whole.isEmpty || fraction.isEmpty then none
    else (digitsValue 10 (whole ++ fraction)).map fun n => .decimal neg n fraction.length

/-- An `f64` literal (R57).  PRESUMED (log 20): a decimal literal is digits, or digits, a point and digits. -/
def parseF64 (cs : List Char) : Option F64Literal :=
  match cs with
  | ['i', 'n', 'f'] => some (.inf false)
  | ['-', 'i', 'n', 'f'] => some (.inf true)
  | ['n', 'a', 'n'] => some .nan
  | 'f' :: '6' :: '4' :: ':' :: '0' :: 'x' :: hex =>
    if hex.length = 16 then (digitsValue 16 hex).map fun n => .bits (BitVec.ofNat 64 n) else none
  | '-' :: rest => parseDecimal true rest
  | _ => parseDecimal false cs

/-- The list cut at every comma. -/
def splitCommas : List Char → List (List Char)
  | [] => [[]]
  | c :: cs =>
    match splitCommas cs with
    | [] => [[c]]
    | first :: rest => if c = ',' then [] :: first :: rest else (c :: first) :: rest

/-- Three operands of format H. -/
def assembleH (make : U32 → U64 → U64 → Instr) (h s v : List Char) : Option Instr :=
  (parseHue h).bind fun h => (parseF64 s).bind fun s => (parseF64 v).map fun v => make h s.pattern v.pattern

/-- Three operands of format C. -/
def assembleC (r g b : List Char) : Option Instr :=
  (parseChannel r).bind fun r => (parseChannel g).bind fun g => (parseChannel b).map fun b => .setrgb r g b

/-- One line of assembler text (R57).  Text from a semicolon on is a comment. -/
def assemble (line : List Char) : Option Instr :=
  let line := (line.takeWhile (· != ';')).dropWhile (· == ' ')
  let (mnemonic, rest) := line.span (· != ' ')
  match splitCommas (dropBlanks rest) with
  | [x, y, z] =>
    if mnemonic = ['S', 'E', 'T', 'R', 'G', 'B'] then assembleC x y z
    else if mnemonic = ['S', 'E', 'T', 'H', 'S', 'V'] then assembleH .sethsv x y z
    else if mnemonic = ['H', 'S', 'V', '2', 'R', 'G', 'B'] then assembleH .hsv2rgb x y z
    else none
  | _ => none

end Sys2Proof.Machine
end

