-- ==== Sys2Proof/Machine/Run.lean ====
section
/-! DEFINITION. Several steps, and the course of one command: from its `accept` to its last event (10_state.md R10,
20_memory.md R39). -/

namespace Sys2Proof.Machine

/-- `n` steps, stopping at the first fault or refusal. -/
def run : Nat → State → StepOutcome
  | 0, s => .next s
  | n + 1, s =>
    match step s with
    | .next t    => run n t
    | .fault r   => .fault r
    | .refused r => .refused r

/-- The command that ran from `s` for `n` steps has been in progress all that time: in no state before the last was
nothing left of it. -/
def InProgress (n : Nat) (s : State) : Prop := ∀ m < n, ∀ t, run m s = .next t → t.todo ≠ none

/-- `t` is a state of the command `i` taken in `s`: right after its `accept`, or after some of its further steps. -/
def CommandReaches (i : Instr) (s t : State) : Prop :=
  ∃ begun n, exec i s = .next begun ∧ InProgress n begun ∧ run n begun = .next t

/-- The command `i` taken in `s` ends in `t`: nothing is left of it. -/
def CommandEnds (i : Instr) (s t : State) : Prop := CommandReaches i s t ∧ t.todo = none

end Sys2Proof.Machine
end

