-- ==== Sys2Proof/Safety.lean ====
section
/-! DEFINITION. What counts as a sound state and a safe run: the invariant between two steps, and the order of events
the peripheral may see (41_encoder.md R91, 42_peripheral_interface.md R106, R107, 20_memory.md R36, R39). -/

namespace Sys2Proof.Machine

/-- The phase an interface operation is issued in (41_encoder.md R91). -/
def PeriphOp.phase : PeriphOp → Phase
  | .configure _ _ _ _   => .configuring
  | .install _           => .configuring
  | .getClockFrequency _ => .encoding
  | .write _ _ _         => .transmitting
  | .uninstall _         => .tornDown

/-- The five operations with the arguments the block passes (42_peripheral_interface.md R101 to R105); a `write`
carries the whole `SEQ`. -/
def IssuedOp (seq : PulseSequence) (op : PeriphOp) : Prop :=
  op = .configure Config.outputPin Config.channelId Config.clockDivider false ∨ op = .install Config.channelId
    ∨ op = .getClockFrequency Config.channelId ∨ op = .write Config.channelId seq false
    ∨ op = .uninstall Config.channelId

/-- The peripheral's condition, as the model keeps it (log 11), while an operation is outstanding: each follows the
previous one's `ok` (R106). -/
def ConditionBefore : PeriphOp → PeriphCondition → Prop
  | .configure _ _ _ _, _   => True
  | .install _, c           => c = .configured
  | .getClockFrequency _, c => c = .installed
  | .write _ _ _, c         => c = .installed
  | .uninstall _, c         => c = .installed

/-- Every working register of the normalizer holds a binary64 datum (10_state.md R19). -/
def NormRegs.AllRepresentable (n : NormRegs) : Prop :=
  Representable n.c ∧ Representable n.hq ∧ Representable n.hm ∧ Representable n.t ∧ Representable n.k
    ∧ Representable n.x ∧ Representable n.m ∧ Representable n.rp ∧ Representable n.gp ∧ Representable n.bp

/-- The encoder's registers hold the complete, correct sequence of the validated channels at a usable frequency
(41_encoder.md R83 to R85, 30_encoding.md R55, R56, 20_memory.md R36). -/
structure FrameBuilt (o : OperandRegs) (e : EncRegs) : Prop where
  frequency : 1 ≤ e.freq.toNat ∧ e.freq.toNat ≤ 1000000000
  tick : e.tickNs.toNat = 1000000000 / e.freq.toNat
  zero : e.pat0 = { high := 400 / e.tickNs.toNat, low := 850 / e.tickNs.toNat }
  one : e.pat1 = { high := 800 / e.tickNs.toNat, low := 450 / e.tickNs.toNat }
  word : e.w = o.g.setWidth 8 ++ o.r.setWidth 8 ++ o.b.setWidth 8
  position : e.i = 24
  sequence : ∀ i : Fin 24, e.seq[i] = if e.w.getLsbD (23 - i) then e.pat1 else e.pat0

/-- The phase in which each of the four failing operations fails (41_encoder.md R91). -/
def FailingStep.phase : FailingStep → Phase
  | .configure => .configuring
  | .install   => .configuring
  | .write     => .transmitting
  | .uninstall => .tornDown

/-- How a command can be about to end: in the phase that 41_encoder.md R91 lists for that ending, and a `TickFault`
only on a frequency without a tick duration (60_exceptions.md R120). -/
def EndsAsAllowed (s : State) : CommandStep → Prop
  | .ask _                      => True
  | .complete .ok               => s.phase = .converting ∨ s.phase = .tornDown
  | .complete .invalidArgument  => s.phase = .idle ∨ s.phase = .converting
  | .complete .peripheralError  => False
  | .complete .tickFault        => False
  | .fatal .invalidArgument     => False
  | .fatal (.peripheralError f) => s.phase = f.phase
  | .fatal .tickFault           => s.phase = .encoding ∧ (s.enc.freq = 0 ∨ 1000000000 < s.enc.freq.toNat)

/-- What holds between two steps of every run. -/
structure State.Inv (s : State) : Prop where
  /-- "While `FAULT = 1`, `PHASE = Fault`" (10_state.md R18), and in no other case. -/
  fault_iff_phase : s.fault = true ↔ s.phase = .fault
  /-- A command begins and ends in `Idle` unless it ends in `Fault` (10_state.md R13), and nothing is left of it then. -/
  at_rest : s.todo = none → s.phase = .idle ∨ s.phase = .fault
  /-- While `FAULT = 1` no command is in progress (60_exceptions.md R118). -/
  dead : s.fault = true → s.todo = none
  /-- An outstanding operation is one of the five, in its phase (41_encoder.md R91). -/
  outstanding : ∀ op, s.todo = some (.ask op) → s.phase = op.phase ∧ IssuedOp s.enc.seq op
  /-- Each operation follows the previous one's `ok` (R106).  The condition is the model's own record (log 11). -/
  condition : ∀ op, s.todo = some (.ask op) → ConditionBefore op s.periph.condition
  /-- A command ends only as 41_encoder.md R91 lists. -/
  ending : ∀ next, s.todo = some next → EndsAsAllowed s next
  /-- No channel above 255 reaches the peripheral (41_encoder.md R81, 90_conflicts.md C2). -/
  channels : s.ownership = .owned →
    s.operands.r.toNat ≤ 255 ∧ s.operands.g.toNat ≤ 255 ∧ s.operands.b.toNat ≤ 255
  /-- From the build on, the sequence is the complete, correct one (20_memory.md R36). -/
  frame : s.phase = .transmitting ∨ s.phase = .tornDown → FrameBuilt s.operands s.enc
  /-- The frame in flight while the peripheral is being released is the one built (10_state.md R26). -/
  submitted : s.phase = .tornDown → s.periph.frame = some s.enc.seq
  /-- Nothing is known of the LED after a fatal error (60_exceptions.md R133) and, DESIGN CHOICE (log 10), while the
  peripheral is being used: R133 tables the LED after an outcome only. -/
  led : s.ownership = .owned ∨ s.fault = true → s.led = .unknown
  /-- The working registers hold binary64 data (10_state.md R19). -/
  norm : s.norm.AllRepresentable

/-- Where a run stands in the order of events that the peripheral and the host may see. -/
inductive Protocol where
  /-- Between two commands. -/
  | ready
  /-- A command was accepted and no interface operation has been answered. -/
  | accepted (i : Instr)
  | configured
  | installed
  | clocked (f : U32)
  | written
  | released
  /-- An operation failed, or the frequency has no tick duration: only the fatal error may follow. -/
  | failed (e : CmdError)
  /-- A fatal error: only a reset may follow. -/
  | dead
deriving DecidableEq, Repr

/-- Whether a command may use the peripheral (42_peripheral_interface.md R106). -/
def transmits : Instr → Bool
  | .setrgb _ _ _  => true
  | .sethsv _ _ _  => true
  | .hsv2rgb _ _ _ => false
  | .reservedOp11  => false

/-- Whether a command may end with `OK` without the peripheral. -/
def convertsOnly : Instr → Bool
  | .setrgb _ _ _  => false
  | .sethsv _ _ _  => false
  | .hsv2rgb _ _ _ => true
  | .reservedOp11  => false

/-- `ok` goes on, `err` fails at that step (R107). -/
def Protocol.after (step : FailingStep) (ok : Protocol) : Ack → Protocol
  | .ok  => ok
  | .err => .failed (.peripheralError step)

/-- Every entry of a sequence is one of the two patterns of a frequency (41_encoder.md R84, R85). -/
def patternsOf (f : U32) (seq : PulseSequence) : Bool :=
  seq.toList.all fun p =>
    decide (p = { high := 400 / (1000000000 / f.toNat), low := 850 / (1000000000 / f.toNat) }
      ∨ p = { high := 800 / (1000000000 / f.toNat), low := 450 / (1000000000 / f.toNat) })

/-- What an answered interface operation does to the order: exactly `configure`, `install`, `get_clock_frequency`,
`write`, `uninstall`, each at most once (R106, R107). -/
def Protocol.onPeriph (p : Protocol) (op : PeriphOp) (answer : Answer) : Option Protocol :=
  match p, op, answer with
  | .accepted i, .configure pin ch div lp, .ack a =>
    if transmits i ∧ pin = Config.outputPin ∧ ch = Config.channelId ∧ div = Config.clockDivider ∧ lp = false
    then some (.after .configure .configured a) else none
  | .configured, .install ch, .ack a =>
    if ch = Config.channelId then some (.after .install .installed a) else none
  | .installed, .getClockFrequency ch, .hz f =>
    if ch = Config.channelId then
      (if 1 ≤ f.toNat ∧ f.toNat ≤ 1000000000 then some (.clocked f) else some (.failed .tickFault))
    else none
  | .clocked f, .write ch seq wait, .ack a =>
    if ch = Config.channelId ∧ wait = false ∧ patternsOf f seq then some (.after .write .written a) else none
  | .written, .uninstall ch, .ack a =>
    if ch = Config.channelId then some (.after .uninstall .released a) else none
  | _, _, _ => none

/-- The order of events: `none` is a run the rules do not allow. -/
def Protocol.next (p : Protocol) (e : Event) : Option Protocol :=
  match e with
  | .reset => some .ready
  | .accept i => if p = .ready ∧ i.wellFormed then some (.accepted i) else none
  | .periph op answer => p.onPeriph op answer
  | .complete .invalidArgument =>
    match p with
    | .accepted _ => some .ready
    | _ => none
  | .complete .ok =>
    match p with
    | .accepted i => if convertsOnly i then some .ready else none
    | .released => some .ready
    | _ => none
  | .complete _ => none
  | .fatal err => if p = .failed err then some .dead else none

/-- Where a run stands after a list of events. -/
def Protocol.run (p : Protocol) (events : List Event) : Option Protocol := events.foldlM Protocol.next p

/-- The state and the place in the order agree. -/
def Protocol.Agrees (p : Protocol) (s : State) : Prop :=
  match s.todo with
  | none => if s.fault then p = .dead else p = .ready
  | some (.ask (.configure _ _ _ _))   => ∃ i, transmits i = true ∧ p = .accepted i
  | some (.ask (.install _))           => p = .configured
  | some (.ask (.getClockFrequency _)) => p = .installed
  | some (.ask (.write _ _ _))         => p = .clocked s.enc.freq
  | some (.ask (.uninstall _))         => p = .written
  | some (.complete .ok) => p = .released ∨ ∃ i, convertsOnly i = true ∧ p = .accepted i
  | some (.complete _)   => ∃ i, p = .accepted i
  | some (.fatal e)      => p = .failed e

/-- The run so far keeps the order of events, and the state is where the run stands. -/
def State.SafeRun (s : State) : Prop := ∃ p, Protocol.run .ready s.trace = some p ∧ p.Agrees s

end Sys2Proof.Machine
end

