-- ==== Sys2Proof/Certificates/Slice0/Obligations.lean ====
section
/-! DEFINITION. The statements about the colour block, and the few expressions they share. -/

open Sys2Proof Sys2Proof.Machine

namespace Sys2Proof.Claims

/-- The block is ready for a command: `PHASE = Idle`, `FAULT = 0` (30_encoding.md R45), and nothing is left of the
previous command (20_memory.md R39). -/
def Ready (s : State) : Prop := s.fault = false ∧ s.phase = .idle ∧ s.todo = none

/-- A ready block to which no reset is applied. -/
def Undisturbed (s : State) : Prop := Ready s ∧ s.host.resetReq = false

/-- `1.0` of 40_normalizer.md R61, by its pattern. -/
def one : F64 := f64OfBits 0x3FF0000000000000

/-- `2.0`, by its pattern. -/
def two : F64 := f64OfBits 0x4000000000000000

/-- `60.0`, by its pattern (R64). -/
def sixty : F64 := f64OfBits 0x404E000000000000

/-- `255.0`, by its pattern (R64). -/
def maxChannel : F64 := f64OfBits 0x406FE00000000000

/-- `+0.0`, by its pattern. -/
def plusZero : F64 := f64OfBits 0x0000000000000000

/-- The condition under which HSV operands are invalid (40_normalizer.md R61). -/
def HsvInvalid (h : U32) (s v : U64) : Prop :=
  360 < h.toNat ∨ f64Gt (f64OfBits s) one = true ∨ f64Gt (f64OfBits v) one = true

/-- The condition under which RGB operands are invalid (41_encoder.md R81). -/
def RgbInvalid (r g b : U32) : Prop := 255 < r.toNat ∨ 255 < g.toNat ∨ 255 < b.toNat

/-- The working registers after a conversion, operation by operation (40_normalizer.md R65 to R69). -/
def workingRegs (h : U32) (sat val : U64) : NormRegs :=
  let C := f64Mul (f64OfBits sat) (f64OfBits val)
  let HQ := f64Div (u32ToF64 h) sixty
  let HM := f64Fmod HQ two
  let T := f64Abs (f64Sub HM one)
  let K := f64Sub one T
  let X := f64Mul C K
  let M := f64Sub (f64OfBits val) C
  let RP := if h < 60 then C else if h < 120 then X else if h < 240 then plusZero else if h < 300 then X else C
  let GP := if h < 60 then X else if h < 180 then C else if h < 240 then X else plusZero
  let BP := if h < 120 then plusZero else if h < 180 then X else if h < 300 then C else X
  { c := C, hq := HQ, hm := HM, t := T, k := K, x := X, m := M, rp := RP, gp := GP, bp := BP }

/-- The value before its conversion to a channel (40_normalizer.md R70). -/
def beforeConversion (ch m : F64) : F64 := f64Mul (f64Add ch m) maxChannel

/-- One channel under a rounding setting: its value, or the `n`-th draw where there is none; and the draws made after it
(R71, R72). -/
def channelOrDraw (mode : Rounding) (p : F64) (n : Nat) : U32 × Nat :=
  match f2u mode p with
  | some c => (c, n)
  | none   => (Config.drawU32 n, n + 1)

/-- `ROUT`, `GOUT`, `BOUT` and the draws made, from the working registers (R70 to R73), under a rounding
setting. -/
def convertedChannels (mode : Rounding) (n : NormRegs) (draws : Nat) : ResultRegs × Nat :=
  let r := channelOrDraw mode (beforeConversion n.rp n.m) draws
  let g := channelOrDraw mode (beforeConversion n.gp n.m) r.2
  let b := channelOrDraw mode (beforeConversion n.bp n.m) g.2
  ({ rout := r.1, gout := g.1, bout := b.1 }, b.2)

/-- The state a `SETHSV` hands to the encoder: operands latched, converted, handed over (41_encoder.md R90). -/
def handedOver (s : State) (h : U32) (sat val : U64) : State :=
  let n := workingRegs h sat val
  let out := convertedChannels s.channelRounding n s.draws
  { s with
    phase := .converting
    operands := { op := 1, h := h, s := sat, v := val, r := out.1.rout, g := out.1.gout, b := out.1.bout }
    norm := n
    results := out.1
    draws := out.2
    trace := s.trace ++ [.accept (.sethsv h sat val)] }

/-- Pattern '0' at a frequency (41_encoder.md R83, R84). -/
def patternZero (f : U32) : Pattern := { high := 400 / (1000000000 / f.toNat), low := 850 / (1000000000 / f.toNat) }

/-- Pattern '1' at a frequency (R83, R84). -/
def patternOne (f : U32) : Pattern := { high := 800 / (1000000000 / f.toNat), low := 450 / (1000000000 / f.toNat) }

/-- The frame of a colour at a frequency: green, red, blue, most significant bit first (30_encoding.md R55). -/
def frameOf (f r g b : U32) : PulseSequence :=
  Vector.ofFn fun i =>
    if (if i.val < 8 then g else if i.val < 16 then r else b).getLsbD (7 - i.val % 8)
    then patternOne f else patternZero f

/-- The encoder's registers after a frame was built (41_encoder.md R83 to R85). -/
def encoderRegs (f r g b : U32) : EncRegs where
  freq := f
  tickNs := BitVec.ofNat 32 (1000000000 / f.toNat)
  pat0 := patternZero f
  pat1 := patternOne f
  seq := frameOf f r g b
  w := g.setWidth 8 ++ r.setWidth 8 ++ b.setWidth 8
  i := 24

/-- The event of each interface operation with its answer (42_peripheral_interface.md R101 to R105). -/
def configured (a : Ack) : Event :=
  .periph (.configure Config.outputPin Config.channelId Config.clockDivider false) (.ack a)

@[inherit_doc configured] def installed (a : Ack) : Event := .periph (.install Config.channelId) (.ack a)

@[inherit_doc configured] def queried (f : U32) : Event := .periph (.getClockFrequency Config.channelId) (.hz f)

@[inherit_doc configured] def wrote (seq : PulseSequence) (a : Ack) : Event :=
  .periph (.write Config.channelId seq false) (.ack a)

@[inherit_doc configured] def uninstalled (a : Ack) : Event := .periph (.uninstall Config.channelId) (.ack a)

/-- What the LED shows after `OK` (60_exceptions.md R133): the colour under the four assumptions, else unknown. -/
def ledAfter (a : LedAssumptions) (zero one : Pattern) (r g b : U32) : Led :=
  if a.frameCompletes = true ∧ a.withinTolerance = true ∧ a.readsGreenRedBlue = true
      ∧ zero.high ≠ 0 ∧ zero.low ≠ 0 ∧ one.high ≠ 0 ∧ one.low ≠ 0 ∧ zero ≠ one
  then .rgb (r.setWidth 8) (g.setWidth 8) (b.setWidth 8) else .unknown

/-- The state after the step `complete` of a command that does not use the peripheral (10_state.md R17). -/
def completed (o : CmdOutcome) (s : State) : State :=
  { s with phase := .idle, todo := none, status := o.code, trace := s.trace ++ [.complete o] }

/-- The state in which a command that passed validation has issued `configure` (41_encoder.md R82), from the state in
which ENCODE_AND_SEND begins.  The LED is unknown from here on: DESIGN CHOICE (log 10). -/
def configuring (s : State) : State :=
  { s with
    phase := .configuring
    led := .unknown
    todo := some (.ask (.configure Config.outputPin Config.channelId Config.clockDivider false)) }

/-- The end of a transmission in which every operation was answered `ok` (41_encoder.md R89,
42_peripheral_interface.md R106): from the state in which ENCODE_AND_SEND begins, with `acks` and `freqs` the answers left
over.  The LED is as 60_exceptions.md R133 reads it, under assumptions that stand in State (log 10); the condition
`released` and the frame in flight are kept as the answers tell them: DESIGN CHOICE (log 11). -/
def transmitted (s : State) (f : U32) (acks : List Ack) (freqs : List U32) : State :=
  let r := s.operands.r
  let g := s.operands.g
  let b := s.operands.b
  { s with
    phase := .idle
    todo := none
    status := 0
    enc := encoderRegs f r g b
    periph := { acks := acks, freqs := freqs, condition := .released, frame := some (frameOf f r g b) }
    led := ledAfter s.ledAssumptions (patternZero f) (patternOne f) r g b
    trace := s.trace ++ [configured .ok, installed .ok, queried f, wrote (frameOf f r g b) .ok, uninstalled .ok,
      .complete .ok] }

/-- The state in which a `SETRGB` begins ENCODE_AND_SEND (41_encoder.md R89). -/
def acceptedRgb (s : State) (r g b : U32) : State :=
  { s with
    operands := { s.operands with op := 0, r := r, g := g, b := b }
    trace := s.trace ++ [.accept (.setrgb r g b)] }

/-- How a command that transmits begins ENCODE_AND_SEND: a `SETRGB` from `acceptedRgb`, a `SETHSV` that passed HSV
validation from `handedOver`. -/
def Begins (i : Instr) (s begun : State) : Prop :=
  (∃ r g b, i = .setrgb r g b ∧ begun = acceptedRgb s r g b)
  ∨ ∃ h sat val, i = .sethsv h sat val ∧ ¬ HsvInvalid h sat val ∧ begun = handedOver s h sat val

/-- The state after a `HSV2RGB` that passed validation was taken and converted (40_normalizer.md R65 to R73). -/
def converted (s : State) (h : U32) (sat val : U64) : State :=
  { s with
    phase := .converting
    todo := some (.complete .ok)
    operands := { s.operands with op := 2, h := h, s := sat, v := val }
    norm := workingRegs h sat val
    results := (convertedChannels s.channelRounding (workingRegs h sat val) s.draws).1
    draws := (convertedChannels s.channelRounding (workingRegs h sat val) s.draws).2
    trace := s.trace ++ [.accept (.hsv2rgb h sat val)] }

/-- The state after an HSV command was taken and turned to `InvalidArgument` by HSV validation (R61). -/
def hsvTurnedAway (s : State) (op : BitVec 2) (i : Instr) (h : U32) (sat val : U64) : State :=
  { s with
    phase := .converting
    todo := some (.complete .invalidArgument)
    operands := { s.operands with op := op, h := h, s := sat, v := val }
    trace := s.trace ++ [.accept i] }

/-- A state with other answers still to come. -/
def withAnswers (s : State) (acks : List Ack) (freqs : List U32) : State :=
  { s with periph := { s.periph with acks := acks, freqs := freqs } }

/-- A state with more answers to come, after those already there. -/
def moreAnswers (acks : List Ack) (freqs : List U32) (s : State) : State :=
  withAnswers s (s.periph.acks ++ acks) (s.periph.freqs ++ freqs)

/-- A state with other words still to be presented. -/
def withCommands (s : State) (cmds : List CmdWord) : State := { s with host := { s.host with cmds := cmds } }

/-- The value of a datum in units of `2^-1074`, with both infinities; `none` for a NaN. -/
def units : F64 → Option (WithBot (WithTop Int))
  | .nan         => none
  | .inf true    => some ⊥
  | .inf false   => some (↑(⊤ : WithTop Int))
  | .fin neg mag => some (↑(↑(if neg then -(mag : Int) else (mag : Int)) : WithTop Int))

/-- The distance between `mag` units and `num / den` units, times `den`. -/
def distance (num den mag : Nat) : Nat := ((num : Int) - (mag : Int) * (den : Int)).natAbs

/-- The three values before conversion are numerically the same. -/
def SameBeforeConversion (n n' : NormRegs) : Prop :=
  units (beforeConversion n.rp n.m) = units (beforeConversion n'.rp n'.m)
  ∧ units (beforeConversion n.gp n.m) = units (beforeConversion n'.gp n'.m)
  ∧ units (beforeConversion n.bp n.m) = units (beforeConversion n'.bp n'.m)

end Sys2Proof.Claims

open Sys2Proof.Claims

/-! ## Encoding -/

/-- 30_encoding.md R47, R48, R59: decoding an encoded instruction gives it back, every operand at every value. -/
def Obligations.DecodeOfEncodeIsIdentity : Prop := ∀ i : Instr, decode (encode i) = i

/-- 30_encoding.md R46 to R48, R50: encoding a decoded word gives every bit back that the decoder reads; bits 63:0 of a
format C word come out as zero (R50), and, DESIGN CHOICE (log 14), so do bits 159:0 of a word with `op = 11`, of which
the reserved instruction keeps nothing. -/
def Obligations.EncodeOfDecodeKeepsEveryReadBit : Prop :=
  ∀ (w : CmdWord) (k : Nat), k < 162 →
    (encode (decode w)).getLsbD k =
      (w.getLsbD k && !(decide (w.extractLsb' 160 2 = 0) && decide (k < 64))
        && !(decide (w.extractLsb' 160 2 = 3) && decide (k < 160)))

/-- 30_encoding.md R50: "Bits 63:0 of a format `C` word are ignored by the block": where the block takes a word (no
reset requested, no command in progress), two words that differ in those bits only are taken alike. -/
def Obligations.IgnoredBitsOfSetrgbChangeNothing : Prop :=
  (∀ (s : State) (w w' : CmdWord) (rest : List CmdWord), s.host.resetReq = false → s.todo = none →
    w.extractLsb' 160 2 = 0 → w >>> 64 = w' >>> 64 →
      step (withCommands s (w :: rest)) = step (withCommands s (w' :: rest)))
  ∧ ∀ r g b : U32, (encode (.setrgb r g b)).extractLsb' 0 64 = 0

/-- 30_encoding.md R51: a word with `op = 11` is refused, whatever its other bits are. -/
def Obligations.ReservedWordIsRefused : Prop :=
  (∀ (s : State) (w : CmdWord) (rest : List CmdWord), Ready s → s.host.resetReq = false →
    w.extractLsb' 160 2 = 3 → step (withCommands s (w :: rest)) = .refused .reservedOpcode)
  ∧ ∀ s : State, s.fault = false → exec .reservedOp11 s = .refused .reservedOpcode

/-- 30_encoding.md R52: every word with another `op` is a legal command and is accepted; out-of-range operands are
rejected, in the next step, by the command's own validation with `InvalidArgument`. -/
def Obligations.EveryOtherWordIsAccepted : Prop :=
  ∀ (s : State) (w : CmdWord) (rest : List CmdWord), Undisturbed s → w.extractLsb' 160 2 ≠ 3 →
    (decode w).wellFormed = true ∧
    ∃ t, step (withCommands s (w :: rest)) = .next t ∧ t.trace = s.trace ++ [.accept (decode w)]
      ∧ ((match decode w with
          | .setrgb r g b      => RgbInvalid r g b
          | .sethsv h sat val  => HsvInvalid h sat val
          | .hsv2rgb h sat val => HsvInvalid h sat val
          | .reservedOp11      => False) →
        step t = .next (completed .invalidArgument t))

/-- 30_encoding.md R59: the decoder by `op`, with the fields of R47 and R48, and as match and mask. -/
def Obligations.OpcodeTableSelectsTheInstruction : Prop :=
  (∀ w : CmdWord,
    (w.extractLsb' 160 2 = 0 →
      decode w = .setrgb (w.extractLsb' 128 32) (w.extractLsb' 96 32) (w.extractLsb' 64 32))
    ∧ (w.extractLsb' 160 2 = 1 →
      decode w = .sethsv (w.extractLsb' 128 32) (w.extractLsb' 64 64) (w.extractLsb' 0 64))
    ∧ (w.extractLsb' 160 2 = 2 →
      decode w = .hsv2rgb (w.extractLsb' 128 32) (w.extractLsb' 64 64) (w.extractLsb' 0 64))
    ∧ (w.extractLsb' 160 2 = 3 → decode w = .reservedOp11))
  ∧ ∀ (w : CmdWord), ∀ row ∈ opcodeTable, row.matchesWord w = true ↔ (decode w).mnemonic = row.mnemonic

/-- Words of 95_test_vectors.md section 5 (W1, W7, W8, W16, W22) decode to what they stand for. -/
def Obligations.SampleWordsDecode : Prop :=
  decode 0x0000000ff00000000000000000000000000000000 = .setrgb 255 0 0
  ∧ decode 0x0000000ff0000000000000000deadbeefdeadbeef = .setrgb 255 0 0
  ∧ decode 0x1000000783ff00000000000003fe0000000000000 = .sethsv 120 0x3FF0000000000000 0x3FE0000000000000
  ∧ decode 0x2000000d23fd00000000000003fe8000000000000 = .hsv2rgb 210 0x3FD0000000000000 0x3FE8000000000000
  ∧ decode 0x30000000000000000000000000000000000000000 = .reservedOp11

/-! ## The step, reset, and what stops the block -/

/-- A step runs the decoded instruction: with no reset requested and no command in progress, the step is `exec` of the
decoded word on the state without that word. -/
def Obligations.StepRunsTheDecodedInstruction : Prop :=
  ∀ (s : State) (w : CmdWord) (rest : List CmdWord), s.host.resetReq = false → Ready s → s.host.cmds = w :: rest →
    step s = exec (decode w) (withCommands s rest)

/-- 30_encoding.md R45, R12: a command is taken exactly when `PHASE = Idle` and `FAULT = 0` (and nothing is left of the
previous one, 20_memory.md R39); taking it is one event, and its operands are latched.  The names of the stops are the
model's (log 15, log 16). -/
def Obligations.CommandIsTakenExactlyWhenIdle : Prop :=
  ∀ (i : Instr) (s : State), i.wellFormed = true →
    ((∃ t, exec i s = .next t) ↔ Ready s)
    ∧ (s.fault = false → ¬ Ready s → exec i s = .refused .notIdle)
    ∧ ∀ t, exec i s = .next t →
      t.trace = s.trace ++ [.accept i] ∧ t.todo ≠ none
      ∧ match i with
        | .setrgb r g b    => t.operands = { s.operands with op := 0, r := r, g := g, b := b }
        | .sethsv h sat val =>
            t.operands.op = 1 ∧ t.operands.h = h ∧ t.operands.s = sat ∧ t.operands.v = val
        | .hsv2rgb h sat val => t.operands = { s.operands with op := 2, h := h, s := sat, v := val }
        | .reservedOp11    => False

/-- 10_state.md R18: while `FAULT = 1` the block takes no step and accepts nothing; only a reset clears it. -/
def Obligations.FaultHoldsUntilReset : Prop :=
  ∀ s : State, s.fault = true →
    (s.host.resetReq = false → step s = .fault .halted)
    ∧ (∀ i, exec i s = .fault .halted)
    ∧ ∀ t, step s = .next t → s.host.resetReq = true ∧ t.fault = false ∧ t.phase = .idle

/-- 42_peripheral_interface.md R108: an operation that has not answered leaves the block stuck in its phase. -/
def Obligations.UnansweredOperationIsStuck : Prop :=
  ∀ (s : State) (op : PeriphOp), s.host.resetReq = false → s.fault = false → s.todo = some (.ask op) →
    (match op with
      | .getClockFrequency _ => s.periph.freqs = []
      | _ => s.periph.acks = []) →
    step s = .fault .unanswered

/-- 42_peripheral_interface.md R100, 10_state.md R17, 60_exceptions.md R118: every step of a command is one event.  A
step that is no reset and does not wait for a command records exactly one event: the answer of the operation that is
outstanding, with that operation's arguments and the answer the environment gives next, or the `complete` or fatal
error the command has come to, or an `accept`.  So between two operations, and between the last answer and `complete`,
there is a state in which a reset can land.  That a fatal error is a step of its own after the answer that led to it is
DESIGN CHOICE (log 1). -/
def Obligations.EveryOperationIsOneStep : Prop :=
  ∀ s t : State, s.host.resetReq = false → step s = .next t →
    (s.todo = none → s.host.cmds = [] → t = s)
    ∧ (∀ w rest, s.todo = none → s.host.cmds = w :: rest → t.trace = s.trace ++ [.accept (decode w)])
    ∧ (∀ op, s.todo = some (.ask op) →
      (∃ f, s.periph.freqs = f :: t.periph.freqs ∧ t.periph.acks = s.periph.acks
        ∧ t.trace = s.trace ++ [.periph op (.hz f)] ∧ ∃ ch, op = .getClockFrequency ch)
      ∨ ∃ a, s.periph.acks = a :: t.periph.acks ∧ t.periph.freqs = s.periph.freqs
        ∧ t.trace = s.trace ++ [.periph op (.ack a)] ∧ ∀ ch, op ≠ .getClockFrequency ch)
    ∧ (∀ o, s.todo = some (.complete o) → t.trace = s.trace ++ [.complete o] ∧ t.todo = none ∧ t.phase = .idle
      ∧ t.status = o.code ∧ t.periph = s.periph)
    ∧ (∀ e, s.todo = some (.fatal e) → t.trace = s.trace ++ [.fatal e] ∧ t.todo = none ∧ t.phase = .fault
      ∧ t.fault = true ∧ t.status = e.outcome.code ∧ t.periph.acks = s.periph.acks
      ∧ t.periph.freqs = s.periph.freqs)

/-- 42_peripheral_interface.md R108, 70_reset_and_hazards.md R152: when answers come makes no difference.  Whatever a
command or a run does with the answers that are there, it does with more answers behind them; so a block that was stuck
at an operation goes on, when more answers come, to where it would have come had they been there from the start. -/
def Obligations.LateAnswersGiveTheSameOutcome : Prop :=
  ∀ (acks : List Ack) (freqs : List U32),
    (∀ (i : Instr) (s t : State), exec i s = .next t →
      exec i (moreAnswers acks freqs s) = .next (moreAnswers acks freqs t))
    ∧ ∀ (n m : Nat) (s t : State), run n s = .next t →
      run n (moreAnswers acks freqs s) = .next (moreAnswers acks freqs t)
      ∧ run (n + m) (moreAnswers acks freqs s) = run m (moreAnswers acks freqs t)

/-- 70_reset_and_hazards.md R135, 10_state.md R29: the block at the start of a run. -/
def Obligations.ResetStateIsIdle : Prop :=
  State.reset.phase = .idle ∧ State.reset.fault = false ∧ State.reset.todo = none
  ∧ State.reset.ownership = .notOwned ∧ State.reset.periph.frame = none ∧ State.reset.periph.condition = .unknown
  ∧ State.reset.led = .unknown ∧ State.reset.channelRounding = .trunc ∧ State.reset.trace = []

/-- 70_reset_and_hazards.md R135: a reset sets `PHASE` and `FAULT`, issues no interface operation, leaves every other
register unspecified (a free value of its own, log 4), and is the only thing that clears `FAULT`.  That the inputs stay
is log 8; that the peripheral's condition is recorded as unknown is log 11. -/
def Obligations.ResetIssuesNothingAndClearsFault : Prop :=
  (∀ s : State, s.host.resetReq = true →
    ∃ t, step s = .next t ∧ t.phase = .idle ∧ t.fault = false
      ∧ t.trace = s.trace ++ [.reset]
      ∧ t.status = (Config.unspecified .STATUS (s.resets + 1)).setWidth 2
      ∧ t.operands = .unspecified (s.resets + 1) ∧ t.results = .unspecified (s.resets + 1)
      ∧ t.norm = .unspecified (s.resets + 1) ∧ t.enc = .unspecified (s.resets + 1)
      ∧ t.todo = none ∧ t.periph = { s.periph with condition := .unknown, frame := none }
      ∧ t.led = .unknown ∧ t.host = { s.host with resetReq := false }
      ∧ t.ledAssumptions = s.ledAssumptions ∧ t.channelRounding = s.channelRounding ∧ t.draws = s.draws)
  ∧ ∀ s t : State, step s = .next t → s.fault = true → t.fault = false → s.host.resetReq = true

/-! ## Floating point -/

/-- 40_normalizer.md R64: an operation's exact result is "rounded once to the nearest binary64 value, ties to the value
with an even last fraction bit".  That a value of `2^1024 - 2^970` or more gives an infinity R64 does not say: it is
IEEE 754's, PRESUMED (log 21). -/
def Obligations.RoundingIsToNearestTiesToEven : Prop :=
  ∀ (neg : Bool) (num den : Nat), 0 < den →
    (f64Round neg num den = .inf neg ↔ (2 ^ 2098 - 2 ^ 2044) * den ≤ num)
    ∧ (num < (2 ^ 2098 - 2 ^ 2044) * den →
      ∃ mag, f64Round neg num den = .fin neg mag ∧ RepresentableMag mag
        ∧ ∀ other, RepresentableMag other → other ≠ mag →
          distance num den mag ≤ distance num den other
          ∧ (distance num den mag = distance num den other → mag / 2 ^ (mag.log2 - 52) % 2 = 0))

/-- 40_normalizer.md R64: every operation gives a binary64 datum from binary64 data; `fmod` is exact. -/
def Obligations.FloatOperationsGiveBinary64Data : Prop :=
  ∀ a b : F64, Representable a → Representable b →
    Representable (f64Add a b) ∧ Representable (f64Sub a b) ∧ Representable (f64Mul a b)
    ∧ Representable (f64Div a b) ∧ Representable (f64Fmod a b) ∧ Representable (f64Abs a)
    ∧ ∀ na ma nb mb, a = .fin na ma → b = .fin nb mb → 0 < mb →
        ∃ r, f64Fmod a b = .fin na r ∧ r < mb ∧ ∃ n, ma = n * mb + r

/-- 40_normalizer.md R64: the special values.  An operation with a NaN operand returns a NaN; `inf * 0` and `inf - inf`
return a NaN; `f64_sub(x, x)` is `+0.0` for finite `x`; a zero product has the sign its operands' signs give; `f64_abs`
clears the sign; and a sum, a difference, a product, a quotient of finite values is the exact one, rounded once. -/
def Obligations.SpecialValuesOfTheFloatOperations : Prop :=
  (∀ x : F64, f64Add .nan x = .nan ∧ f64Add x .nan = .nan ∧ f64Sub .nan x = .nan ∧ f64Sub x .nan = .nan
    ∧ f64Mul .nan x = .nan ∧ f64Mul x .nan = .nan ∧ f64Div .nan x = .nan ∧ f64Div x .nan = .nan
    ∧ f64Fmod .nan x = .nan ∧ f64Fmod x .nan = .nan ∧ f64Abs .nan = .nan)
  ∧ (∀ na nb : Bool, f64Mul (.inf na) (.fin nb 0) = .nan ∧ f64Mul (.fin nb 0) (.inf na) = .nan
    ∧ f64Sub (.inf na) (.inf na) = .nan ∧ f64Abs (.inf na) = .inf false)
  ∧ (∀ (na nb : Bool) (a b : Nat), f64Sub (.fin na a) (.fin na a) = .fin false 0
    ∧ f64Mul (.fin na 0) (.fin nb b) = .fin (na != nb) 0 ∧ f64Mul (.fin nb b) (.fin na 0) = .fin (na != nb) 0
    ∧ f64Abs (.fin na a) = .fin false a)
  ∧ ∀ (na nb : Bool) (a b : Nat),
    f64Mul (.fin na a) (.fin nb b) = f64Round (na != nb) (a * b) (2 ^ 1074)
    ∧ (0 < b → f64Div (.fin na a) (.fin nb b) = f64Round (na != nb) (a * 2 ^ 1074) b)
    ∧ (0 < a + b → f64Add (.fin na a) (.fin na b) = f64Round na (a + b) 1
      ∧ f64Sub (.fin na a) (.fin (!na) b) = f64Round na (a + b) 1)
    ∧ (b < a → f64Add (.fin na a) (.fin (!na) b) = f64Round na (a - b) 1
      ∧ f64Add (.fin (!na) b) (.fin na a) = f64Round na (a - b) 1
      ∧ f64Sub (.fin na a) (.fin na b) = f64Round na (a - b) 1
      ∧ f64Sub (.fin (!na) b) (.fin (!na) a) = f64Round na (a - b) 1)

/-- 40_normalizer.md R62: `f64_gt(a, b)` is "true exactly when neither operand is a NaN and `a` is numerically greater
than `b`; `-0.0` and `+0.0` compare equal". -/
def Obligations.GreaterThanIsTheQuietComparison : Prop :=
  (∀ a b : F64, f64Gt a b = true ↔ ∃ x y, units a = some x ∧ units b = some y ∧ y < x)
  ∧ (∀ b : F64, f64Gt (f64OfBits 0x8000000000000000) b = f64Gt (f64OfBits 0) b)
  ∧ (∀ a : F64, f64Gt a (f64OfBits 0x8000000000000000) = f64Gt a (f64OfBits 0))
  ∧ (∀ mag, f64Gt (.fin true mag) one = false) ∧ f64Gt .nan one = false ∧ f64Gt (.inf true) one = false
  ∧ f64Gt (.inf false) one = true

/-- 40_normalizer.md R63: `u32_to_f64` is exact, and the conversion back gives the integer under either rounding. -/
def Obligations.IntegerToFloatIsExact : Prop :=
  ∀ n : U32, Representable (u32ToF64 n) ∧ u32ToF64 n = .fin false (n.toNat * 2 ^ 1074)
    ∧ ∀ mode, f2u mode (u32ToF64 n) = some n

/-- 40_normalizer.md R71: the conversion of a finite value whose rounded value fits: `TRUNC` cuts the fraction off,
`NEAREST` takes the nearest integer, a tie going away from zero. -/
def Obligations.ChannelConversionRoundsAsSet : Prop :=
  ∀ (neg : Bool) (mag : Nat) (c : U32),
    (f2u .trunc (.fin neg mag) = some c ↔
      c.toNat * 2 ^ 1074 ≤ mag ∧ mag < (c.toNat + 1) * 2 ^ 1074 ∧ (neg = true → c = 0))
    ∧ (f2u .nearest (.fin neg mag) = some c ↔
      2 * (c.toNat * 2 ^ 1074) ≤ 2 * mag + 2 ^ 1074 ∧ 2 * mag < 2 * (c.toNat * 2 ^ 1074) + 2 ^ 1074
        ∧ (neg = true → c = 0))

/-- 40_normalizer.md R72: where the conversion is a draw, under both settings, and that it is the next draw. -/
def Obligations.UndefinedConversionIsADraw : Prop :=
  (∀ mode, f2u mode .nan = none ∧ ∀ neg, f2u mode (.inf neg) = none)
  ∧ (∀ neg mag, f2u .trunc (.fin neg mag) = none ↔
      (neg = true ∧ 2 ^ 1074 ≤ mag) ∨ (neg = false ∧ 4294967296 * 2 ^ 1074 ≤ mag))
  ∧ (∀ neg mag, f2u .nearest (.fin neg mag) = none ↔
      (neg = true ∧ 2 ^ 1074 ≤ 2 * mag) ∨ (neg = false ∧ 8589934591 * 2 ^ 1074 ≤ 2 * mag))
  ∧ ∀ mode p n, channelValue mode p n =
      match f2u mode p with
      | some c => (c, n)
      | none   => (Config.drawU32 n, n + 1)

/-! ## The normalizer -/

/-- 40_normalizer.md R61: the validation of `HSV2RGB` and `SETHSV`.  A rejected command is taken and completes in the
next step with `STATUS = 1`, its operands latched, and changes nothing else; an accepted `HSV2RGB` is converted and
completes with `STATUS = 0`. -/
def Obligations.HsvValidation : Prop :=
  ∀ (s : State) (h : U32) (sat val : U64), Undisturbed s →
    (HsvInvalid h sat val →
      (exec (.hsv2rgb h sat val) s = .next (hsvTurnedAway s 2 (.hsv2rgb h sat val) h sat val)
        ∧ step (hsvTurnedAway s 2 (.hsv2rgb h sat val) h sat val) = .next { s with
          status := 1, operands := { s.operands with op := 2, h := h, s := sat, v := val }
          trace := s.trace ++ [.accept (.hsv2rgb h sat val), .complete .invalidArgument] })
      ∧ exec (.sethsv h sat val) s = .next (hsvTurnedAway s 1 (.sethsv h sat val) h sat val)
      ∧ step (hsvTurnedAway s 1 (.sethsv h sat val) h sat val) = .next { s with
        status := 1, operands := { s.operands with op := 1, h := h, s := sat, v := val }
        trace := s.trace ++ [.accept (.sethsv h sat val), .complete .invalidArgument] })
    ∧ (¬ HsvInvalid h sat val → ∃ t, CommandEnds (.hsv2rgb h sat val) s t ∧ t.status = 0)
    ∧ (HsvInvalid 361 sat val ∧ HsvInvalid h 0x3FF0000000000001 val ∧ HsvInvalid h sat 0x3FF0000000000001
      ∧ ¬ HsvInvalid 360 0x3FF0000000000000 0x3FF0000000000000)

/-- 40_normalizer.md R65 to R70: `HSV2RGB` on operands that pass validation is taken and converted, and completes in the
next step; both states whole. -/
def Obligations.Hsv2rgbConverts : Prop :=
  ∀ (s : State) (h : U32) (sat val : U64), Undisturbed s → ¬ HsvInvalid h sat val →
    exec (.hsv2rgb h sat val) s = .next (converted s h sat val)
    ∧ step (converted s h sat val) = .next { s with
      status := 0
      operands := { s.operands with op := 2, h := h, s := sat, v := val }
      norm := workingRegs h sat val
      results := (convertedChannels s.channelRounding (workingRegs h sat val) s.draws).1
      draws := (convertedChannels s.channelRounding (workingRegs h sat val) s.draws).2
      trace := s.trace ++ [.accept (.hsv2rgb h sat val), .complete .ok] }

/-- 20_memory.md R37, 10_state.md R16: what `HSV2RGB` leaves unchanged, in every state from its `accept` to its end. -/
def Obligations.Hsv2rgbFrame : Prop :=
  ∀ (s t : State) (h : U32) (sat val : U64), s.host.resetReq = false → CommandReaches (.hsv2rgb h sat val) s t →
    t.periph = s.periph ∧ t.enc = s.enc ∧ t.led = s.led ∧ t.ledAssumptions = s.ledAssumptions ∧ t.host = s.host
    ∧ t.channelRounding = s.channelRounding ∧ t.resets = s.resets ∧ t.fault = false
    ∧ t.operands.r = s.operands.r ∧ t.operands.g = s.operands.g ∧ t.operands.b = s.operands.b
    ∧ (t.todo ≠ none → t.status = s.status) ∧ (t.todo = none → t.phase = .idle)
    ∧ (HsvInvalid h sat val → t.norm = s.norm ∧ t.results = s.results ∧ t.draws = s.draws)
    ∧ ∀ op a, .periph op a ∈ t.trace → .periph op a ∈ s.trace

/-- 40_normalizer.md R75: an input in contract gives channels in range, under either rounding setting, with no draw,
and a `SETHSV` of it is never rejected. -/
def Obligations.InContractChannelsStayInRange : Prop :=
  ∀ (h : U32) (sat val : U64), hsvInContract h sat val = true →
    (∀ ch ∈ [(workingRegs h sat val).rp, (workingRegs h sat val).gp, (workingRegs h sat val).bp],
      (∃ neg mag, beforeConversion ch (workingRegs h sat val).m = .fin neg mag
        ∧ mag ≤ 255 * 2 ^ 1074 ∧ (neg = true → mag = 0))
      ∧ ∀ mode, ∃ c, f2u mode (beforeConversion ch (workingRegs h sat val).m) = some c ∧ c.toNat ≤ 255)
    ∧ ∀ s, Ready s →
      ∃ led, exec (.sethsv h sat val) s = .next { configuring (handedOver s h sat val) with led := led }

/-- 40_normalizer.md R76: at a multiple of 60 every step is exact and the triple is the table's, under either rounding
setting. -/
def Obligations.SectorBoundariesAreExact : Prop :=
  ∀ (mode : Rounding) (k : Nat) (sat val : U64), k ≤ 6 → hsvInContract (BitVec.ofNat 32 (60 * k)) sat val = true →
    let n := workingRegs (BitVec.ofNat 32 (60 * k)) sat val
    let c := f2u mode (beforeConversion n.c n.m)
    let m := f2u mode (beforeConversion plusZero n.m)
    let triple := (f2u mode (beforeConversion n.rp n.m), f2u mode (beforeConversion n.gp n.m),
      f2u mode (beforeConversion n.bp n.m))
    units n.hq = units (f64OfNat k) ∧ units n.hm = units (f64OfNat (k % 2)) ∧ units n.k = units (f64OfNat (k % 2))
    ∧ units n.x = (if k % 2 = 0 then units plusZero else units n.c)
    ∧ (k = 0 → triple = (c, m, m)) ∧ (k = 1 → triple = (c, c, m)) ∧ (k = 2 → triple = (m, c, m))
    ∧ (k = 3 → triple = (m, c, c)) ∧ (k = 4 → triple = (m, m, c)) ∧ (k = 5 → triple = (c, m, c))
    ∧ (k = 6 → triple = (c, m, m))

/-- 40_normalizer.md R74, R76: hue 360 gives the same result as hue 0, for every saturation and value. -/
def Obligations.Hue360GivesWhatHue0Gives : Prop :=
  ∀ (s t t' : State) (sat val : U64), s.host.resetReq = false →
    CommandEnds (.hsv2rgb 0 sat val) s t → CommandEnds (.hsv2rgb 360 sat val) s t' →
    t'.results = t.results ∧ t'.status = t.status ∧ t'.draws = t.draws

/-- 40_normalizer.md R74: saturation 0 gives a grey for every hue; value 0 gives black for every hue and saturation. -/
def Obligations.ZeroSaturationIsGreyAndZeroValueIsBlack : Prop :=
  (∀ (s : State) (h : U32) (val : U64), Undisturbed s → hsvInContract h 0 val = true →
    ∃ t c, CommandEnds (.hsv2rgb h 0 val) s t
      ∧ f2u s.channelRounding (f64Mul (f64OfBits val) maxChannel) = some c ∧ t.status = 0 ∧ t.results = { rout := c, gout := c, bout := c })
  ∧ ∀ (s : State) (h : U32) (sat : U64), Undisturbed s → hsvInContract h sat 0 = true →
    ∃ t, CommandEnds (.hsv2rgb h sat 0) s t ∧ t.status = 0 ∧ t.results = { rout := 0, gout := 0, bout := 0 }

/-- 40_normalizer.md R78: `-0.0` as saturation or value, whatever the other operand is, passes validation where `+0.0`
does and gives exactly the channels `+0.0` gives (draws included): the three values before conversion are numerically
the same, and `-0.0` converts to 0.  It is in contract where `+0.0` is.  The sign does reach `C` and `X`: the rule's own
example `S = -0.0`, `V = 0.5`. -/
def Obligations.SignOfZeroDoesNotShow : Prop :=
  (∀ (s : State) (h : U32) (x : U64), Undisturbed s →
    (HsvInvalid h 0x8000000000000000 x ↔ HsvInvalid h 0 x)
    ∧ (HsvInvalid h x 0x8000000000000000 ↔ HsvInvalid h x 0)
    ∧ hsvInContract h 0x8000000000000000 x = hsvInContract h 0 x
    ∧ hsvInContract h x 0x8000000000000000 = hsvInContract h x 0
    ∧ (¬ HsvInvalid h 0 x →
      SameBeforeConversion (workingRegs h 0x8000000000000000 x) (workingRegs h 0 x)
      ∧ ∃ t t', CommandEnds (.hsv2rgb h 0x8000000000000000 x) s t ∧ CommandEnds (.hsv2rgb h 0 x) s t'
        ∧ t.status = 0 ∧ t'.status = 0 ∧ t.results = t'.results)
    ∧ (¬ HsvInvalid h x 0 →
      SameBeforeConversion (workingRegs h x 0x8000000000000000) (workingRegs h x 0)
      ∧ ∃ t t', CommandEnds (.hsv2rgb h x 0x8000000000000000) s t ∧ CommandEnds (.hsv2rgb h x 0) s t'
        ∧ t.status = 0 ∧ t'.status = 0 ∧ t.results = t'.results))
  ∧ (∀ mode, f2u mode (f64OfBits 0x8000000000000000) = some 0)
  ∧ ∀ h : U32, h.toNat ≤ 360 →
    (workingRegs h 0x8000000000000000 0x3FE0000000000000).c = .fin true 0
    ∧ (workingRegs h 0x8000000000000000 0x3FE0000000000000).x = .fin true 0
    ∧ (workingRegs h 0x8000000000000000 0x3FE0000000000000).m = f64OfBits 0x3FE0000000000000

/-- 40_normalizer.md R74, R77, R79 and 95_test_vectors.md (V32, V22, O1, O3, O8): worked examples on any ready state, under
either rounding setting; V22 is the one they tell apart. -/
def Obligations.WorkedConversions : Prop :=
  ∀ s : State, Undisturbed s →
    (∃ t, CommandEnds (.hsv2rgb 210 0x3FD0000000000000 0x3FE8000000000000) s t ∧ t.status = 0
      ∧ t.results = { rout := 143, gout := 167, bout := 191 })
    ∧ (∃ t, CommandEnds (.hsv2rgb 20 0x3FF0000000000000 0x3FF0000000000000) s t ∧ t.status = 0
      ∧ t.results = { rout := 255, gout := (if s.channelRounding = .trunc then 84 else 85), bout := 0 })
    ∧ (∃ t, CommandEnds (.hsv2rgb 0 0xBFF0000000000000 0x3FF0000000000000) s t ∧ t.status = 0
      ∧ t.results = { rout := 255, gout := 510, bout := 510 })
    ∧ (∃ t, CommandEnds (.hsv2rgb 120 0x3FF0000000000000 0xBFF0000000000000) s t ∧ t.status = 0
      ∧ t.results = { rout := 0, gout := Config.drawU32 s.draws, bout := 0 } ∧ t.draws = s.draws + 1)
    ∧ (∃ t, CommandEnds (.hsv2rgb 0 0x7FF8000000000000 0x3FE0000000000000) s t ∧ t.status = 0
      ∧ t.results = { rout := Config.drawU32 s.draws, gout := Config.drawU32 (s.draws + 1),
                      bout := Config.drawU32 (s.draws + 2) })

/-- 40_normalizer.md R71, 00_scope.md R6, 10_state.md R24: `CHANNEL_ROUNDING` is a configuration value: no step changes
it, a reset included, and commands run under either value: R71's example `f2u(127.5)` is 127 under `TRUNC` and 128 under
`NEAREST` (95_test_vectors.md V27, V48), in a conversion and in the channels a transmission goes on with. -/
def Obligations.ChannelRoundingIsAConfigurationValue : Prop :=
  (∀ s t : State, step s = .next t → t.channelRounding = s.channelRounding)
  ∧ ∀ (s : State) (mode : Rounding), Undisturbed s → s.channelRounding = mode →
    let half : U32 := match mode with
      | .trunc   => 127
      | .nearest => 128
    (∃ t, CommandEnds (.hsv2rgb 0 0 0x3FE0000000000000) s t ∧ t.status = 0
      ∧ t.results = { rout := half, gout := half, bout := half })
    ∧ ∃ t, exec (.sethsv 120 0x3FF0000000000000 0x3FE0000000000000) s = .next t
      ∧ t.todo = some (.ask (.configure Config.outputPin Config.channelId Config.clockDivider false))
      ∧ t.operands.r = 0 ∧ t.operands.g = half ∧ t.operands.b = 0

/-! ## The encoder -/

/-- 41_encoder.md R81: the validation of `SETRGB`.  A rejected command is taken and completes in the next step with
`STATUS = 1`, its operands latched, and changes nothing else; one that passes goes on to `configure`, with channels
whose bits above bit 7 are zero. -/
def Obligations.RgbValidation : Prop :=
  ∀ (s : State) (r g b : U32), Undisturbed s →
    (RgbInvalid r g b →
      exec (.setrgb r g b) s = .next { acceptedRgb s r g b with todo := some (.complete .invalidArgument) }
      ∧ step { acceptedRgb s r g b with todo := some (.complete .invalidArgument) } = .next { s with
        status := 1, operands := { s.operands with op := 0, r := r, g := g, b := b }
        trace := s.trace ++ [.accept (.setrgb r g b), .complete .invalidArgument] })
    ∧ (¬ RgbInvalid r g b →
      (∃ led, exec (.setrgb r g b) s = .next { configuring (acceptedRgb s r g b) with led := led })
      ∧ r = (r.setWidth 8).setWidth 32 ∧ g = (g.setWidth 8).setWidth 32 ∧ b = (b.setWidth 8).setWidth 32)

/-- 41_encoder.md R85, R88, R89, 42_peripheral_interface.md R106: `SETRGB` with every operation answered `ok` and a usable
frequency: it is taken and issues `configure`, and six steps later (five answers and `complete`) it has ended, its whole
state as stated.  The LED is 60_exceptions.md R133's at the end, under the assumptions of log 10, and unknown before
(DESIGN CHOICE, log 10); the peripheral's condition and the frame in flight are kept as the answers tell them (DESIGN
CHOICE, log 11). -/
def Obligations.SetrgbTransmits : Prop :=
  ∀ (s : State) (r g b f : U32) (acks : List Ack) (freqs : List U32), Undisturbed s → ¬ RgbInvalid r g b →
    s.periph.acks = .ok :: .ok :: .ok :: .ok :: acks → s.periph.freqs = f :: freqs →
    1 ≤ f.toNat → f.toNat ≤ 1000000000 →
      exec (.setrgb r g b) s = .next (configuring (acceptedRgb s r g b))
      ∧ run 6 (configuring (acceptedRgb s r g b)) = .next (transmitted (acceptedRgb s r g b) f acks freqs)

/-- 41_encoder.md R93, 60_exceptions.md R121: a frequency of 0 or above `10^9` raises `TickFault`, for `SETRGB` and for
`SETHSV` alike: no write, no release, `PAT`, `SEQ` and `W` not written, the peripheral left installed.  DESIGN CHOICE: the
fatal error is a step of its own after the answer (log 1), the LED is unknown from `configure` on (log 10), and the
recorded condition of the peripheral follows its answers (log 11). -/
def Obligations.UnusableFrequencyIsATickFault : Prop :=
  ∀ (i : Instr) (s begun : State) (f : U32) (acks : List Ack) (freqs : List U32), Undisturbed s →
    s.periph.acks = .ok :: .ok :: acks → s.periph.freqs = f :: freqs → f = 0 ∨ 1000000000 < f.toNat →
    Begins i s begun → ¬ RgbInvalid begun.operands.r begun.operands.g begun.operands.b →
      exec i s = .next (configuring begun)
      ∧ run 4 (configuring begun) = .next { begun with
        phase := .fault, todo := none, fault := true, status := 3, led := .unknown
        enc := { s.enc with freq := f, tickNs := if f = 0 then s.enc.tickNs else 0 }
        periph := { s.periph with acks := acks, freqs := freqs, condition := .installed }
        trace := begun.trace ++ [configured .ok, installed .ok, queried f, .fatal .tickFault] }

/-- 42_peripheral_interface.md R107, 60_exceptions.md R117, R118: an `err` answer to `configure` or `install` is fatal,
for `SETRGB` and for `SETHSV` alike: nothing further is issued, `STATUS = 2`, `FAULT = 1`, `PHASE = Fault`.  DESIGN
CHOICE: the fatal error is a step of its own after the `err` (log 1), the LED is unknown from `configure` on (log 10), and
the recorded condition of the peripheral is unknown after a `PeripheralError` (log 11). -/
def Obligations.FailedAcquisitionIsFatal : Prop :=
  ∀ (i : Instr) (s begun : State) (acks : List Ack), Undisturbed s → Begins i s begun →
    ¬ RgbInvalid begun.operands.r begun.operands.g begun.operands.b →
    exec i s = .next (configuring begun)
    ∧ (s.periph.acks = .err :: acks →
      run 2 (configuring begun) = .next { begun with
        phase := .fault, todo := none, fault := true, status := 2, led := .unknown
        periph := { s.periph with acks := acks, condition := .unknown }
        trace := begun.trace ++ [configured .err, .fatal (.peripheralError .configure)] })
    ∧ (s.periph.acks = .ok :: .err :: acks →
      run 3 (configuring begun) = .next { begun with
        phase := .fault, todo := none, fault := true, status := 2, led := .unknown
        periph := { s.periph with acks := acks, condition := .unknown }
        trace := begun.trace ++ [configured .ok, installed .err, .fatal (.peripheralError .install)] })

/-- 42_peripheral_interface.md R107, 60_exceptions.md R117, R118: an `err` answer to `write` or `uninstall` is fatal; a
failed `write` is not followed by `uninstall`.  DESIGN CHOICE: the fatal error is a step of its own after the `err`
(log 1), the LED is unknown from `configure` on (log 10), the recorded condition of the peripheral is unknown after a
`PeripheralError`, and the frame in flight is the last one accepted (log 11). -/
def Obligations.FailedSubmissionOrReleaseIsFatal : Prop :=
  ∀ (i : Instr) (s begun : State) (f : U32) (acks : List Ack) (freqs : List U32), Undisturbed s →
    s.periph.freqs = f :: freqs → 1 ≤ f.toNat → f.toNat ≤ 1000000000 → Begins i s begun →
    ¬ RgbInvalid begun.operands.r begun.operands.g begun.operands.b →
    let frame := frameOf f begun.operands.r begun.operands.g begun.operands.b
    exec i s = .next (configuring begun)
    ∧ (s.periph.acks = .ok :: .ok :: .err :: acks →
      run 5 (configuring begun) = .next { begun with
        phase := .fault, todo := none, fault := true, status := 2, led := .unknown
        enc := encoderRegs f begun.operands.r begun.operands.g begun.operands.b
        periph := { s.periph with acks := acks, freqs := freqs, condition := .unknown }
        trace := begun.trace ++ [configured .ok, installed .ok, queried f, wrote frame .err,
          .fatal (.peripheralError .write)] })
    ∧ (s.periph.acks = .ok :: .ok :: .ok :: .err :: acks →
      run 6 (configuring begun) = .next { begun with
        phase := .fault, todo := none, fault := true, status := 2, led := .unknown
        enc := encoderRegs f begun.operands.r begun.operands.g begun.operands.b
        periph := { s.periph with acks := acks, freqs := freqs, condition := .unknown, frame := some frame }
        trace := begun.trace ++ [configured .ok, installed .ok, queried f, wrote frame .ok, uninstalled .err,
          .fatal (.peripheralError .uninstall)] })

/-- 42_peripheral_interface.md R108 (95_test_vectors.md E12): the operation whose answer is not there is left
outstanding in its phase, `STATUS` not written, and there the block is stuck, for each of the five operations of a
command that transmits.  The LED is unknown in each of these states (in `configuring`, from which they go on) and the
condition is what the answers told: DESIGN CHOICE (log 10, log 11). -/
def Obligations.UnansweredOperationIsLeftOutstanding : Prop :=
  ∀ (i : Instr) (s begun : State) (f : U32) (freqs : List U32), Undisturbed s → Begins i s begun →
    ¬ RgbInvalid begun.operands.r begun.operands.g begun.operands.b →
    let enc := encoderRegs f begun.operands.r begun.operands.g begun.operands.b
    let frame := frameOf f begun.operands.r begun.operands.g begun.operands.b
    let atConfigure := configuring begun
    let atInstall := { atConfigure with
      todo := some (.ask (.install Config.channelId))
      periph := { s.periph with acks := [], condition := .configured }
      trace := begun.trace ++ [configured .ok] }
    let atQuery := { atConfigure with
      phase := .encoding, todo := some (.ask (.getClockFrequency Config.channelId))
      periph := { s.periph with acks := [], condition := .installed }
      trace := begun.trace ++ [configured .ok, installed .ok] }
    let atWrite := { atConfigure with
      phase := .transmitting, todo := some (.ask (.write Config.channelId frame false)), enc := enc
      periph := { s.periph with acks := [], freqs := freqs, condition := .installed }
      trace := begun.trace ++ [configured .ok, installed .ok, queried f] }
    let atUninstall := { atConfigure with
      phase := .tornDown, todo := some (.ask (.uninstall Config.channelId)), enc := enc
      periph := { s.periph with acks := [], freqs := freqs, condition := .installed, frame := some frame }
      trace := begun.trace ++ [configured .ok, installed .ok, queried f, wrote frame .ok] }
    exec i s = .next atConfigure
    ∧ (s.periph.acks = [] → step atConfigure = .fault .unanswered)
    ∧ (s.periph.acks = [.ok] → run 1 atConfigure = .next atInstall ∧ step atInstall = .fault .unanswered)
    ∧ (s.periph.acks = [.ok, .ok] → s.periph.freqs = [] →
      run 2 atConfigure = .next atQuery ∧ step atQuery = .fault .unanswered)
    ∧ (s.periph.freqs = f :: freqs → 1 ≤ f.toNat → f.toNat ≤ 1000000000 →
      (s.periph.acks = [.ok, .ok] → run 3 atConfigure = .next atWrite ∧ step atWrite = .fault .unanswered)
      ∧ (s.periph.acks = [.ok, .ok, .ok] →
        run 4 atConfigure = .next atUninstall ∧ step atUninstall = .fault .unanswered))

/-- 10_state.md R16, 41_encoder.md R89: what `SETRGB` leaves unchanged, in every state from its `accept` to its end. -/
def Obligations.SetrgbFrame : Prop :=
  ∀ (s t : State) (r g b : U32), s.host.resetReq = false → CommandReaches (.setrgb r g b) s t →
    t.results = s.results ∧ t.norm = s.norm ∧ t.draws = s.draws ∧ t.host = s.host ∧ t.resets = s.resets
    ∧ t.ledAssumptions = s.ledAssumptions ∧ t.channelRounding = s.channelRounding
    ∧ t.operands = { s.operands with op := 0, r := r, g := g, b := b }
    ∧ (t.todo ≠ none → t.status = s.status)
    ∧ (RgbInvalid r g b → t.enc = s.enc ∧ t.periph = s.periph ∧ t.led = s.led ∧ t.phase = .idle ∧ t.fault = false)
    ∧ ∃ acks freqs, s.periph.acks = acks ++ t.periph.acks ∧ s.periph.freqs = freqs ++ t.periph.freqs

/-- 30_encoding.md R56, 41_encoder.md R85: the frame word holds, from its top bit down, the bits of the sequence, and
the loop writes into `SEQ[i]` the pattern that `W[23 - i]` selects. -/
def Obligations.SequenceIsTheFrameWordShiftedOut : Prop :=
  ∀ (r g b : U32) (e : EncRegs) (k : Nat) (hk : k < 24),
    (frameWord r g b).getLsbD (23 - k) =
      (if k < 8 then g.getLsbD (7 - k) else if k < 16 then r.getLsbD (7 - k % 8) else b.getLsbD (7 - k % 8))
    ∧ (serialise r g b e).seq[k] = (if (frameWord r g b).getLsbD (23 - k) then e.pat1 else e.pat0)
    ∧ (serialise r g b e).w = frameWord r g b ∧ (serialise r g b e).i = 24
    ∧ (serialise r g b e).pat0 = e.pat0 ∧ (serialise r g b e).pat1 = e.pat1
    ∧ (serialise r g b e).freq = e.freq ∧ (serialise r g b e).tickNs = e.tickNs

/-- 41_encoder.md R95: bounds on the pattern table and the frame of a `SETRGB` or a `SETHSV`, in every state from the
answer of the clock query to the command's end, when no `TickFault` is raised; what is submitted is that frame. -/
def Obligations.SubmittedCountsAreBounded : Prop :=
  ∀ (i : Instr) (s t : State) (f : U32), s.host.resetReq = false → CommandReaches i s t →
    queried f ∈ t.trace.drop s.trace.length →
    t.todo ≠ some (.fatal .tickFault) → .fatal .tickFault ∉ t.trace.drop s.trace.length →
      1 ≤ t.enc.tickNs.toNat
      ∧ (∀ p ∈ [t.enc.pat0, t.enc.pat1], p.high ≤ 850 ∧ p.low ≤ 850 ∧ p.high + p.low ≤ 1250)
      ∧ (∀ p ∈ t.enc.seq.toList, p = t.enc.pat0 ∨ p = t.enc.pat1)
      ∧ (t.enc.seq.toList.map fun p => p.high + p.low).sum ≤ 30000
      ∧ ∀ ch seq wait a, .periph (.write ch seq wait) a ∈ t.trace.drop s.trace.length → seq = t.enc.seq

/-- 41_encoder.md R94, 70_reset_and_hazards.md R145: at which frequencies which counts are zero. -/
def Obligations.LowFrequenciesGiveZeroCounts : Prop :=
  ∀ f : U32, 1 ≤ f.toNat → f.toNat ≤ 1000000000 →
    let T := (tickDuration f).toNat
    let zero := pattern0 (tickDuration f)
    let one := pattern1 (tickDuration f)
    (T ≤ 400 ↔ 2493766 ≤ f.toNat) ∧ (851 ≤ T ↔ f.toNat ≤ 1175088)
    ∧ (zero.high = 0 ↔ 401 ≤ T) ∧ (one.low = 0 ↔ 451 ≤ T) ∧ (one.high = 0 ↔ 801 ≤ T) ∧ (zero.low = 0 ↔ 851 ≤ T)
    ∧ (851 ≤ T → zero = one)

/-- 41_encoder.md R84: when the frequency divides `10^9`, a duration is never longer than nominal and is shorter by
less than one tick. -/
def Obligations.DividingFrequencyNeverLengthensAPulse : Prop :=
  ∀ f : U32, f.toNat ∣ 1000000000 →
    let tick := 1000000000 / f.toNat
    tick * f.toNat = 1000000000
    ∧ ∀ (count ns : Nat),
      ((count, ns) = ((pattern0 (tickDuration f)).high, 400) ∨ (count, ns) = ((pattern0 (tickDuration f)).low, 850)
        ∨ (count, ns) = ((pattern1 (tickDuration f)).high, 800) ∨ (count, ns) = ((pattern1 (tickDuration f)).low, 450)) →
      count * tick ≤ ns ∧ ns < count * tick + tick

/-- 41_encoder.md R98: two successive `SETRGB` commands of any two colours use different pattern tables, each from its
own answer, whatever the host presents after them. -/
def Obligations.PatternsAreRecomputedForEveryCommand : Prop :=
  ∀ (s : State) (r g b r' g' b' f f' : U32) (rest : List CmdWord) (acks : List Ack) (freqs : List U32),
    Undisturbed s → ¬ RgbInvalid r g b → ¬ RgbInvalid r' g' b' →
    s.host.cmds = encode (.setrgb r g b) :: encode (.setrgb r' g' b') :: rest →
    s.periph.acks = .ok :: .ok :: .ok :: .ok :: .ok :: .ok :: .ok :: .ok :: acks → s.periph.freqs = f :: f' :: freqs →
    1 ≤ f.toNat → f.toNat ≤ 1000000000 → 1 ≤ f'.toNat → f'.toNat ≤ 1000000000 →
      ∃ t u, run 7 s = .next t ∧ run 7 t = .next u
        ∧ t.trace = s.trace
          ++ [.accept (.setrgb r g b), configured .ok, installed .ok, queried f, wrote (frameOf f r g b) .ok,
              uninstalled .ok, .complete .ok]
        ∧ t.enc = encoderRegs f r g b
        ∧ u.trace = t.trace
          ++ [.accept (.setrgb r' g' b'), configured .ok, installed .ok, queried f', wrote (frameOf f' r' g' b') .ok,
              uninstalled .ok, .complete .ok]
        ∧ u.enc = encoderRegs f' r' g' b'
        ∧ u.host.cmds = rest ∧ u.periph.acks = acks ∧ u.periph.freqs = freqs

/-! ## SETHSV -/

/-- 41_encoder.md R90: a converted channel above 255 ends a `SETHSV` in `InvalidArgument`, after the conversion and
without any interface operation. -/
def Obligations.SethsvRejectsConvertedChannels : Prop :=
  ∀ (s : State) (h : U32) (sat val : U64), Undisturbed s → ¬ HsvInvalid h sat val →
    let begun := handedOver s h sat val
    RgbInvalid begun.operands.r begun.operands.g begun.operands.b →
      exec (.sethsv h sat val) s = .next { begun with todo := some (.complete .invalidArgument) }
      ∧ step { begun with todo := some (.complete .invalidArgument) } = .next (completed .invalidArgument begun)

/-- 41_encoder.md R90: `SETHSV` on operands in contract, every operation answered `ok` and a usable frequency: it is
taken, converted and issues `configure`, and six steps later it has ended, its whole state as stated.  The LED is
60_exceptions.md R133's at the end, under the assumptions of log 10, and unknown before (DESIGN CHOICE, log 10); the
peripheral's condition and the frame in flight are kept as the answers tell them (DESIGN CHOICE, log 11). -/
def Obligations.SethsvTransmits : Prop :=
  ∀ (s : State) (h : U32) (sat val : U64) (f : U32) (acks : List Ack) (freqs : List U32), Undisturbed s →
    hsvInContract h sat val = true →
    s.periph.acks = .ok :: .ok :: .ok :: .ok :: acks → s.periph.freqs = f :: freqs →
    1 ≤ f.toNat → f.toNat ≤ 1000000000 →
      exec (.sethsv h sat val) s = .next (configuring (handedOver s h sat val))
      ∧ run 6 (configuring (handedOver s h sat val)) = .next (transmitted (handedOver s h sat val) f acks freqs)

/-- 30_encoding.md R58: `SETHSV h, s, v` behaves as `HSV2RGB h, s, v` followed, if and only if that succeeded, by
`SETRGB ROUT, GOUT, BOUT`, with one accept and one complete: step for step, from its `accept` to its end. -/
def Obligations.SethsvIsHsv2rgbThenSetrgb : Prop :=
  ∀ (s t : State) (h : U32) (sat val : U64), s.host.resetReq = false → CommandEnds (.hsv2rgb h sat val) s t →
    (t.status ≠ 0 →
      CommandEnds (.sethsv h sat val) s { t with
        operands := { t.operands with op := 1 }
        trace := s.trace ++ [.accept (.sethsv h sat val), .complete .invalidArgument] })
    ∧ (t.status = 0 →
      ∃ v u, exec (.setrgb t.results.rout t.results.gout t.results.bout) t = .next v
        ∧ exec (.sethsv h sat val) s = .next u
        ∧ ∀ n, InProgress n v →
          InProgress n u
          ∧ (∀ w, run n v = .next w →
            run n u = .next { w with
              phase := if w.phase = .idle ∧ w.todo ≠ none then .converting else w.phase
              status := if w.todo = none then w.status else s.status
              operands := { w.operands with op := 1 }
              trace := s.trace ++ .accept (.sethsv h sat val) :: w.trace.drop (t.trace.length + 1) })
          ∧ ∀ r, run n v = .fault r → run n u = .fault r)

/-- 41_encoder.md R90, 20_memory.md R37: what `SETHSV` leaves unchanged and what it has written, in every state from its
`accept` to its end. -/
def Obligations.SethsvFrame : Prop :=
  ∀ (s t : State) (h : U32) (sat val : U64), s.host.resetReq = false → CommandReaches (.sethsv h sat val) s t →
    t.host = s.host ∧ t.resets = s.resets ∧ t.ledAssumptions = s.ledAssumptions
    ∧ t.channelRounding = s.channelRounding
    ∧ t.operands.op = 1 ∧ t.operands.h = h ∧ t.operands.s = sat ∧ t.operands.v = val
    ∧ (t.todo ≠ none → t.status = s.status)
    ∧ (HsvInvalid h sat val →
        t.operands = { s.operands with op := 1, h := h, s := sat, v := val } ∧ t.results = s.results ∧ t.norm = s.norm
        ∧ t.draws = s.draws ∧ t.enc = s.enc ∧ t.periph = s.periph ∧ t.led = s.led ∧ t.fault = false)
    ∧ (¬ HsvInvalid h sat val →
        t.norm = workingRegs h sat val
        ∧ (t.results, t.draws) = convertedChannels s.channelRounding (workingRegs h sat val) s.draws
        ∧ t.operands.r = t.results.rout ∧ t.operands.g = t.results.gout ∧ t.operands.b = t.results.bout
        ∧ (RgbInvalid t.results.rout t.results.gout t.results.bout →
            t.enc = s.enc ∧ t.periph = s.periph ∧ t.led = s.led ∧ t.fault = false))
    ∧ ∃ acks freqs, s.periph.acks = acks ++ t.periph.acks ∧ s.periph.freqs = freqs ++ t.periph.freqs

/-! ## Rules of the whole machine -/

/-- 10_state.md R26(b), R13: in a sound state `PHASE` tells who owns the peripheral, and while an operation is
outstanding the block does. -/
def Obligations.PhaseTellsTheOwnership : Prop :=
  ∀ s : State, s.Inv →
    (∀ op, s.todo = some (.ask op) → s.ownership = .owned) ∧ (s.fault = true → s.ownership = .undefined)
    ∧ (s.todo = none → s.fault = false → s.ownership = .notOwned)

/-- 60_exceptions.md R133: what the LED shows after each outcome of a `SETRGB` or a `SETHSV`, against what it showed
before the command; `HSV2RGB` leaves it; and the same of every single step that ends a command, whatever came
before it. -/
def Obligations.LedFollowsTheOutcome : Prop :=
  (∀ (i : Instr) (s t : State), transmits i = true → s.host.resetReq = false → CommandEnds i s t →
    (t.trace.getLast? = some (.complete .invalidArgument) → t.led = s.led)
    ∧ (∀ e, t.trace.getLast? = some (.fatal e) → t.led = .unknown)
    ∧ (t.trace.getLast? = some (.complete .ok) →
      t.led = ledAfter t.ledAssumptions t.enc.pat0 t.enc.pat1 t.operands.r t.operands.g t.operands.b))
  ∧ (∀ (s t : State) (h : U32) (sat val : U64), s.host.resetReq = false →
    CommandReaches (.hsv2rgb h sat val) s t → t.led = s.led)
  ∧ ∀ s t : State, s.host.resetReq = false → step s = .next t →
    (s.todo = some (.complete .invalidArgument) → t.led = s.led)
    ∧ (∀ e, s.todo = some (.fatal e) → t.led = .unknown)
    ∧ (s.todo = some (.complete .ok) → s.phase = .tornDown →
      t.led = ledAfter t.ledAssumptions t.enc.pat0 t.enc.pat1 t.operands.r t.operands.g t.operands.b)

/-- The invariant holds at reset. -/
def Obligations.ResetStateIsSound : Prop := State.reset.Inv

/-- The invariant is kept by every step from every state that has it (10_state.md R13, R18, 20_memory.md R36,
41_encoder.md R81, R91).  Two of its clauses are the model's own: that the LED is unknown while the peripheral is used
(log 10) and that the recorded condition follows the answers (log 11). -/
def Obligations.EveryStepKeepsTheInvariant : Prop := ∀ s t : State, s.Inv → step s = .next t → t.Inv

/-- The order of events holds at the start of a run. -/
def Obligations.ResetStateBeginsASafeRun : Prop := State.reset.SafeRun

/-- 42_peripheral_interface.md R106, R107, 20_memory.md R39, 41_encoder.md R99: every step keeps the order of events:
exactly `configure`, `install`, `get_clock_frequency`, `write`, `uninstall`, each at most once in a command and each
with the block's arguments, none after a failure, none in an `HSV2RGB` or after a failed validation. -/
def Obligations.EveryStepKeepsTheOrderOfEvents : Prop :=
  ∀ s t : State, s.Inv → s.SafeRun → step s = .next t → t.SafeRun

/-- 10_state.md R11: no command's result depends on a value an earlier command left in a register.  Two ready blocks that
agree on everything but their registers and their past (on the inputs, `CHANNEL_ROUNDING`, the LED) run any number of steps, over any number of commands, alike: the
same events, the same phase, peripheral and LED, the same `STATUS` once a command has ended, and the same results and
working registers once one was converted. -/
def Obligations.ResultsDoNotDependOnLeftOverValues : Prop :=
  ∀ (n : Nat) (s s' t : State), Undisturbed s → Ready s' →
    s'.host = s.host → s'.periph = s.periph → s'.led = s.led →
    s'.ledAssumptions = s.ledAssumptions → s'.channelRounding = s.channelRounding → s'.draws = s.draws → run n s = .next t →
      ∃ t' new, run n s' = .next t' ∧ t.trace = s.trace ++ new ∧ t'.trace = s'.trace ++ new
        ∧ t'.phase = t.phase ∧ t'.todo = t.todo ∧ t'.fault = t.fault ∧ t'.host = t.host ∧ t'.periph = t.periph
        ∧ t'.led = t.led ∧ t'.draws = t.draws
        ∧ ((∃ o, .complete o ∈ new) ∨ (∃ e, .fatal e ∈ new) → t'.status = t.status)
        ∧ (∀ h sat val, .accept (.hsv2rgb h sat val) ∈ new ∨ .accept (.sethsv h sat val) ∈ new →
            ¬ HsvInvalid h sat val → t'.results = t.results ∧ t'.norm = t.norm)

/-! ## The assembler syntax -/

/-- 30_encoding.md R57: the line of a command assembles to it, decimal and hexadecimal operands and bit patterns. -/
def Obligations.AssemblerLinesStandForTheirCommands : Prop :=
  assemble "SETRGB 18, 0x34, 86".toList = some (.setrgb 18 52 86)
  ∧ assemble "SETHSV 120, 1.0, 0.1".toList = some (.sethsv 120 0x3FF0000000000000 0x3FB999999999999A)
  ∧ assemble "HSV2RGB 45, f64:0x3FD3333333333333, -0.0".toList = some (.hsv2rgb 45 0x3FD3333333333333 0x8000000000000000)
  ∧ assemble "HSV2RGB 0, nan, -inf".toList = some (.hsv2rgb 0 0x7FF8000000000000 0xFFF0000000000000)
  ∧ assemble "SETRGB 4294967296, 0, 0".toList = none
end

