-- ==== Sys2Proof/Laws/Decode.lean ====
section
/-! SUPPORT. The bits of a placed field, and of the fields read back. -/

namespace Sys2Proof

theorem atBit_getLsbD {n : Nat} (value : BitVec n) (position i : Nat) :
    (atBit value position).getLsbD i = (decide (i < 162) && (!decide (i < position) && value.getLsbD (i - position))) := by
  simp only [atBit, BitVec.getLsbD_shiftLeft, BitVec.getLsbD_setWidth]
  by_cases h : i < 162
  · have : i - position < 162 := by omega
    simp [h, this]
  · simp [h]

theorem opField_getLsbD (w : CmdWord) (i : Nat) :
    (opField w).getLsbD i = (decide (i < 2) && w.getLsbD (160 + i)) := by simp [opField, BitVec.getLsbD_extractLsb']

theorem firstField_getLsbD (w : CmdWord) (i : Nat) :
    (firstField w).getLsbD i = (decide (i < 32) && w.getLsbD (128 + i)) := by
  simp [firstField, BitVec.getLsbD_extractLsb']

theorem gField_getLsbD (w : CmdWord) (i : Nat) :
    (gField w).getLsbD i = (decide (i < 32) && w.getLsbD (96 + i)) := by simp [gField, BitVec.getLsbD_extractLsb']

theorem bField_getLsbD (w : CmdWord) (i : Nat) :
    (bField w).getLsbD i = (decide (i < 32) && w.getLsbD (64 + i)) := by simp [bField, BitVec.getLsbD_extractLsb']

theorem sField_getLsbD (w : CmdWord) (i : Nat) :
    (sField w).getLsbD i = (decide (i < 64) && w.getLsbD (64 + i)) := by simp [sField, BitVec.getLsbD_extractLsb']

theorem vField_getLsbD (w : CmdWord) (i : Nat) :
    (vField w).getLsbD i = (decide (i < 64) && w.getLsbD i) := by simp [vField, BitVec.getLsbD_extractLsb']

end Sys2Proof
end

