-- ==== Sys2Proof/Laws/State.lean ====
section
/-! SUPPORT. What each named update of the state does to each field. -/

namespace Sys2Proof.Machine

variable (s : State)

/-! ### `record e s` -/

@[simp] theorem record_phase (e : Event) : (record e s).phase = s.phase := rfl
@[simp] theorem record_todo (e : Event) : (record e s).todo = s.todo := rfl
@[simp] theorem record_fault (e : Event) : (record e s).fault = s.fault := rfl
@[simp] theorem record_status (e : Event) : (record e s).status = s.status := rfl
@[simp] theorem record_operands (e : Event) : (record e s).operands = s.operands := rfl
@[simp] theorem record_results (e : Event) : (record e s).results = s.results := rfl
@[simp] theorem record_norm (e : Event) : (record e s).norm = s.norm := rfl
@[simp] theorem record_enc (e : Event) : (record e s).enc = s.enc := rfl
@[simp] theorem record_host (e : Event) : (record e s).host = s.host := rfl
@[simp] theorem record_periph (e : Event) : (record e s).periph = s.periph := rfl
@[simp] theorem record_led (e : Event) : (record e s).led = s.led := rfl
@[simp] theorem record_ledAssumptions (e : Event) : (record e s).ledAssumptions = s.ledAssumptions := rfl
@[simp] theorem record_channelRounding (e : Event) : (record e s).channelRounding = s.channelRounding := rfl
@[simp] theorem record_draws (e : Event) : (record e s).draws = s.draws := rfl
@[simp] theorem record_resets (e : Event) : (record e s).resets = s.resets := rfl
@[simp] theorem record_trace (e : Event) : (record e s).trace = s.trace ++ [e] := rfl

/-! ### `goOn next s` -/

@[simp] theorem goOn_phase (next : CommandStep) : (goOn next s).phase = s.phase := rfl
@[simp] theorem goOn_todo (next : CommandStep) : (goOn next s).todo = some next := rfl
@[simp] theorem goOn_fault (next : CommandStep) : (goOn next s).fault = s.fault := rfl
@[simp] theorem goOn_status (next : CommandStep) : (goOn next s).status = s.status := rfl
@[simp] theorem goOn_operands (next : CommandStep) : (goOn next s).operands = s.operands := rfl
@[simp] theorem goOn_results (next : CommandStep) : (goOn next s).results = s.results := rfl
@[simp] theorem goOn_norm (next : CommandStep) : (goOn next s).norm = s.norm := rfl
@[simp] theorem goOn_enc (next : CommandStep) : (goOn next s).enc = s.enc := rfl
@[simp] theorem goOn_host (next : CommandStep) : (goOn next s).host = s.host := rfl
@[simp] theorem goOn_periph (next : CommandStep) : (goOn next s).periph = s.periph := rfl
@[simp] theorem goOn_led (next : CommandStep) : (goOn next s).led = s.led := rfl
@[simp] theorem goOn_ledAssumptions (next : CommandStep) : (goOn next s).ledAssumptions = s.ledAssumptions := rfl
@[simp] theorem goOn_channelRounding (next : CommandStep) : (goOn next s).channelRounding = s.channelRounding := rfl
@[simp] theorem goOn_draws (next : CommandStep) : (goOn next s).draws = s.draws := rfl
@[simp] theorem goOn_resets (next : CommandStep) : (goOn next s).resets = s.resets := rfl
@[simp] theorem goOn_trace (next : CommandStep) : (goOn next s).trace = s.trace := rfl

/-! ### `issue op s` -/

@[simp] theorem issue_phase (op : PeriphOp) : (issue op s).phase = s.phase := rfl
@[simp] theorem issue_todo (op : PeriphOp) : (issue op s).todo = some (.ask op) := rfl
@[simp] theorem issue_fault (op : PeriphOp) : (issue op s).fault = s.fault := rfl
@[simp] theorem issue_status (op : PeriphOp) : (issue op s).status = s.status := rfl
@[simp] theorem issue_operands (op : PeriphOp) : (issue op s).operands = s.operands := rfl
@[simp] theorem issue_results (op : PeriphOp) : (issue op s).results = s.results := rfl
@[simp] theorem issue_norm (op : PeriphOp) : (issue op s).norm = s.norm := rfl
@[simp] theorem issue_enc (op : PeriphOp) : (issue op s).enc = s.enc := rfl
@[simp] theorem issue_host (op : PeriphOp) : (issue op s).host = s.host := rfl
@[simp] theorem issue_periph (op : PeriphOp) : (issue op s).periph = s.periph := rfl
@[simp] theorem issue_led (op : PeriphOp) : (issue op s).led = s.led := rfl
@[simp] theorem issue_ledAssumptions (op : PeriphOp) : (issue op s).ledAssumptions = s.ledAssumptions := rfl
@[simp] theorem issue_channelRounding (op : PeriphOp) : (issue op s).channelRounding = s.channelRounding := rfl
@[simp] theorem issue_draws (op : PeriphOp) : (issue op s).draws = s.draws := rfl
@[simp] theorem issue_resets (op : PeriphOp) : (issue op s).resets = s.resets := rfl
@[simp] theorem issue_trace (op : PeriphOp) : (issue op s).trace = s.trace := rfl

/-! ### `complete o s` -/

@[simp] theorem complete_phase (o : CmdOutcome) : (complete o s).phase = .idle := rfl
@[simp] theorem complete_todo (o : CmdOutcome) : (complete o s).todo = none := rfl
@[simp] theorem complete_fault (o : CmdOutcome) : (complete o s).fault = s.fault := rfl
@[simp] theorem complete_status (o : CmdOutcome) : (complete o s).status = o.code := rfl
@[simp] theorem complete_operands (o : CmdOutcome) : (complete o s).operands = s.operands := rfl
@[simp] theorem complete_results (o : CmdOutcome) : (complete o s).results = s.results := rfl
@[simp] theorem complete_norm (o : CmdOutcome) : (complete o s).norm = s.norm := rfl
@[simp] theorem complete_enc (o : CmdOutcome) : (complete o s).enc = s.enc := rfl
@[simp] theorem complete_host (o : CmdOutcome) : (complete o s).host = s.host := rfl
@[simp] theorem complete_periph (o : CmdOutcome) : (complete o s).periph = s.periph := rfl
@[simp] theorem complete_led (o : CmdOutcome) : (complete o s).led = ledAfterCommand o s := rfl
@[simp] theorem complete_ledAssumptions (o : CmdOutcome) : (complete o s).ledAssumptions = s.ledAssumptions := rfl
@[simp] theorem complete_channelRounding (o : CmdOutcome) : (complete o s).channelRounding = s.channelRounding := rfl
@[simp] theorem complete_draws (o : CmdOutcome) : (complete o s).draws = s.draws := rfl
@[simp] theorem complete_resets (o : CmdOutcome) : (complete o s).resets = s.resets := rfl
@[simp] theorem complete_trace (o : CmdOutcome) : (complete o s).trace = s.trace ++ [.complete o] := rfl

/-! ### `enterFault e s` -/

@[simp] theorem enterFault_phase (e : CmdError) : (enterFault e s).phase = .fault := rfl
@[simp] theorem enterFault_todo (e : CmdError) : (enterFault e s).todo = none := rfl
@[simp] theorem enterFault_fault (e : CmdError) : (enterFault e s).fault = true := rfl
@[simp] theorem enterFault_status (e : CmdError) : (enterFault e s).status = e.outcome.code := rfl
@[simp] theorem enterFault_operands (e : CmdError) : (enterFault e s).operands = s.operands := rfl
@[simp] theorem enterFault_results (e : CmdError) : (enterFault e s).results = s.results := rfl
@[simp] theorem enterFault_norm (e : CmdError) : (enterFault e s).norm = s.norm := rfl
@[simp] theorem enterFault_enc (e : CmdError) : (enterFault e s).enc = s.enc := rfl
@[simp] theorem enterFault_host (e : CmdError) : (enterFault e s).host = s.host := rfl
@[simp] theorem enterFault_periph (e : CmdError) : (enterFault e s).periph = { s.periph with condition := conditionAfter e s.periph.condition } := rfl
@[simp] theorem enterFault_led (e : CmdError) : (enterFault e s).led = .unknown := rfl
@[simp] theorem enterFault_ledAssumptions (e : CmdError) : (enterFault e s).ledAssumptions = s.ledAssumptions := rfl
@[simp] theorem enterFault_channelRounding (e : CmdError) : (enterFault e s).channelRounding = s.channelRounding := rfl
@[simp] theorem enterFault_draws (e : CmdError) : (enterFault e s).draws = s.draws := rfl
@[simp] theorem enterFault_resets (e : CmdError) : (enterFault e s).resets = s.resets := rfl
@[simp] theorem enterFault_trace (e : CmdError) : (enterFault e s).trace = s.trace ++ [.fatal e] := rfl

/-! ### `raise .invalidArgument s` -/

@[simp] theorem raise_invalidArgument_phase : (raise .invalidArgument s).phase = s.phase := rfl
@[simp] theorem raise_invalidArgument_todo : (raise .invalidArgument s).todo = some (.complete .invalidArgument) := rfl
@[simp] theorem raise_invalidArgument_fault : (raise .invalidArgument s).fault = s.fault := rfl
@[simp] theorem raise_invalidArgument_status : (raise .invalidArgument s).status = s.status := rfl
@[simp] theorem raise_invalidArgument_operands : (raise .invalidArgument s).operands = s.operands := rfl
@[simp] theorem raise_invalidArgument_results : (raise .invalidArgument s).results = s.results := rfl
@[simp] theorem raise_invalidArgument_norm : (raise .invalidArgument s).norm = s.norm := rfl
@[simp] theorem raise_invalidArgument_enc : (raise .invalidArgument s).enc = s.enc := rfl
@[simp] theorem raise_invalidArgument_host : (raise .invalidArgument s).host = s.host := rfl
@[simp] theorem raise_invalidArgument_periph : (raise .invalidArgument s).periph = s.periph := rfl
@[simp] theorem raise_invalidArgument_led : (raise .invalidArgument s).led = s.led := rfl
@[simp] theorem raise_invalidArgument_ledAssumptions : (raise .invalidArgument s).ledAssumptions = s.ledAssumptions := rfl
@[simp] theorem raise_invalidArgument_channelRounding : (raise .invalidArgument s).channelRounding = s.channelRounding := rfl
@[simp] theorem raise_invalidArgument_draws : (raise .invalidArgument s).draws = s.draws := rfl
@[simp] theorem raise_invalidArgument_resets : (raise .invalidArgument s).resets = s.resets := rfl
@[simp] theorem raise_invalidArgument_trace : (raise .invalidArgument s).trace = s.trace := rfl

/-! ### `raise (.peripheralError f) s` -/

@[simp] theorem raise_peripheralError_phase (f : FailingStep) : (raise (.peripheralError f) s).phase = s.phase := rfl
@[simp] theorem raise_peripheralError_todo (f : FailingStep) : (raise (.peripheralError f) s).todo = some (.fatal (.peripheralError f)) := rfl
@[simp] theorem raise_peripheralError_fault (f : FailingStep) : (raise (.peripheralError f) s).fault = s.fault := rfl
@[simp] theorem raise_peripheralError_status (f : FailingStep) : (raise (.peripheralError f) s).status = s.status := rfl
@[simp] theorem raise_peripheralError_operands (f : FailingStep) : (raise (.peripheralError f) s).operands = s.operands := rfl
@[simp] theorem raise_peripheralError_results (f : FailingStep) : (raise (.peripheralError f) s).results = s.results := rfl
@[simp] theorem raise_peripheralError_norm (f : FailingStep) : (raise (.peripheralError f) s).norm = s.norm := rfl
@[simp] theorem raise_peripheralError_enc (f : FailingStep) : (raise (.peripheralError f) s).enc = s.enc := rfl
@[simp] theorem raise_peripheralError_host (f : FailingStep) : (raise (.peripheralError f) s).host = s.host := rfl
@[simp] theorem raise_peripheralError_periph (f : FailingStep) : (raise (.peripheralError f) s).periph = s.periph := rfl
@[simp] theorem raise_peripheralError_led (f : FailingStep) : (raise (.peripheralError f) s).led = s.led := rfl
@[simp] theorem raise_peripheralError_ledAssumptions (f : FailingStep) : (raise (.peripheralError f) s).ledAssumptions = s.ledAssumptions := rfl
@[simp] theorem raise_peripheralError_channelRounding (f : FailingStep) : (raise (.peripheralError f) s).channelRounding = s.channelRounding := rfl
@[simp] theorem raise_peripheralError_draws (f : FailingStep) : (raise (.peripheralError f) s).draws = s.draws := rfl
@[simp] theorem raise_peripheralError_resets (f : FailingStep) : (raise (.peripheralError f) s).resets = s.resets := rfl
@[simp] theorem raise_peripheralError_trace (f : FailingStep) : (raise (.peripheralError f) s).trace = s.trace := rfl

/-! ### `raise .tickFault s` -/

@[simp] theorem raise_tickFault_phase : (raise .tickFault s).phase = s.phase := rfl
@[simp] theorem raise_tickFault_todo : (raise .tickFault s).todo = some (.fatal .tickFault) := rfl
@[simp] theorem raise_tickFault_fault : (raise .tickFault s).fault = s.fault := rfl
@[simp] theorem raise_tickFault_status : (raise .tickFault s).status = s.status := rfl
@[simp] theorem raise_tickFault_operands : (raise .tickFault s).operands = s.operands := rfl
@[simp] theorem raise_tickFault_results : (raise .tickFault s).results = s.results := rfl
@[simp] theorem raise_tickFault_norm : (raise .tickFault s).norm = s.norm := rfl
@[simp] theorem raise_tickFault_enc : (raise .tickFault s).enc = s.enc := rfl
@[simp] theorem raise_tickFault_host : (raise .tickFault s).host = s.host := rfl
@[simp] theorem raise_tickFault_periph : (raise .tickFault s).periph = s.periph := rfl
@[simp] theorem raise_tickFault_led : (raise .tickFault s).led = s.led := rfl
@[simp] theorem raise_tickFault_ledAssumptions : (raise .tickFault s).ledAssumptions = s.ledAssumptions := rfl
@[simp] theorem raise_tickFault_channelRounding : (raise .tickFault s).channelRounding = s.channelRounding := rfl
@[simp] theorem raise_tickFault_draws : (raise .tickFault s).draws = s.draws := rfl
@[simp] theorem raise_tickFault_resets : (raise .tickFault s).resets = s.resets := rfl
@[simp] theorem raise_tickFault_trace : (raise .tickFault s).trace = s.trace := rfl

/-! ### `accept i s` -/

@[simp] theorem accept_phase (i : Instr) : (accept i s).phase = s.phase := rfl
@[simp] theorem accept_todo (i : Instr) : (accept i s).todo = s.todo := rfl
@[simp] theorem accept_fault (i : Instr) : (accept i s).fault = s.fault := rfl
@[simp] theorem accept_status (i : Instr) : (accept i s).status = s.status := rfl
@[simp] theorem accept_operands (i : Instr) : (accept i s).operands = latchOperands i s.operands := rfl
@[simp] theorem accept_results (i : Instr) : (accept i s).results = s.results := rfl
@[simp] theorem accept_norm (i : Instr) : (accept i s).norm = s.norm := rfl
@[simp] theorem accept_enc (i : Instr) : (accept i s).enc = s.enc := rfl
@[simp] theorem accept_host (i : Instr) : (accept i s).host = s.host := rfl
@[simp] theorem accept_periph (i : Instr) : (accept i s).periph = s.periph := rfl
@[simp] theorem accept_led (i : Instr) : (accept i s).led = s.led := rfl
@[simp] theorem accept_ledAssumptions (i : Instr) : (accept i s).ledAssumptions = s.ledAssumptions := rfl
@[simp] theorem accept_channelRounding (i : Instr) : (accept i s).channelRounding = s.channelRounding := rfl
@[simp] theorem accept_draws (i : Instr) : (accept i s).draws = s.draws := rfl
@[simp] theorem accept_resets (i : Instr) : (accept i s).resets = s.resets := rfl
@[simp] theorem accept_trace (i : Instr) : (accept i s).trace = s.trace ++ [.accept i] := rfl

/-! ### `handOver s` -/

@[simp] theorem handOver_phase : (handOver s).phase = s.phase := rfl
@[simp] theorem handOver_todo : (handOver s).todo = s.todo := rfl
@[simp] theorem handOver_fault : (handOver s).fault = s.fault := rfl
@[simp] theorem handOver_status : (handOver s).status = s.status := rfl
@[simp] theorem handOver_operands : (handOver s).operands = { s.operands with r := s.results.rout, g := s.results.gout, b := s.results.bout } := rfl
@[simp] theorem handOver_results : (handOver s).results = s.results := rfl
@[simp] theorem handOver_norm : (handOver s).norm = s.norm := rfl
@[simp] theorem handOver_enc : (handOver s).enc = s.enc := rfl
@[simp] theorem handOver_host : (handOver s).host = s.host := rfl
@[simp] theorem handOver_periph : (handOver s).periph = s.periph := rfl
@[simp] theorem handOver_led : (handOver s).led = s.led := rfl
@[simp] theorem handOver_ledAssumptions : (handOver s).ledAssumptions = s.ledAssumptions := rfl
@[simp] theorem handOver_channelRounding : (handOver s).channelRounding = s.channelRounding := rfl
@[simp] theorem handOver_draws : (handOver s).draws = s.draws := rfl
@[simp] theorem handOver_resets : (handOver s).resets = s.resets := rfl
@[simp] theorem handOver_trace : (handOver s).trace = s.trace := rfl

/-! ### `buildFrame s` -/

@[simp] theorem buildFrame_phase : (buildFrame s).phase = s.phase := rfl
@[simp] theorem buildFrame_todo : (buildFrame s).todo = s.todo := rfl
@[simp] theorem buildFrame_fault : (buildFrame s).fault = s.fault := rfl
@[simp] theorem buildFrame_status : (buildFrame s).status = s.status := rfl
@[simp] theorem buildFrame_operands : (buildFrame s).operands = s.operands := rfl
@[simp] theorem buildFrame_results : (buildFrame s).results = s.results := rfl
@[simp] theorem buildFrame_norm : (buildFrame s).norm = s.norm := rfl
@[simp] theorem buildFrame_enc : (buildFrame s).enc = serialise s.operands.r s.operands.g s.operands.b
      { s.enc with pat0 := pattern0 s.enc.tickNs, pat1 := pattern1 s.enc.tickNs } := rfl
@[simp] theorem buildFrame_host : (buildFrame s).host = s.host := rfl
@[simp] theorem buildFrame_periph : (buildFrame s).periph = s.periph := rfl
@[simp] theorem buildFrame_led : (buildFrame s).led = s.led := rfl
@[simp] theorem buildFrame_ledAssumptions : (buildFrame s).ledAssumptions = s.ledAssumptions := rfl
@[simp] theorem buildFrame_channelRounding : (buildFrame s).channelRounding = s.channelRounding := rfl
@[simp] theorem buildFrame_draws : (buildFrame s).draws = s.draws := rfl
@[simp] theorem buildFrame_resets : (buildFrame s).resets = s.resets := rfl
@[simp] theorem buildFrame_trace : (buildFrame s).trace = s.trace := rfl

/-! ### `applyReset s` -/

@[simp] theorem applyReset_phase : (applyReset s).phase = .idle := rfl
@[simp] theorem applyReset_todo : (applyReset s).todo = none := rfl
@[simp] theorem applyReset_fault : (applyReset s).fault = false := rfl
@[simp] theorem applyReset_status : (applyReset s).status = (Config.unspecified .STATUS (s.resets + 1)).setWidth 2 := rfl
@[simp] theorem applyReset_operands : (applyReset s).operands = .unspecified (s.resets + 1) := rfl
@[simp] theorem applyReset_results : (applyReset s).results = .unspecified (s.resets + 1) := rfl
@[simp] theorem applyReset_norm : (applyReset s).norm = .unspecified (s.resets + 1) := rfl
@[simp] theorem applyReset_enc : (applyReset s).enc = .unspecified (s.resets + 1) := rfl
@[simp] theorem applyReset_host : (applyReset s).host = { s.host with resetReq := false } := rfl
@[simp] theorem applyReset_periph : (applyReset s).periph = { s.periph with condition := .unknown, frame := none } := rfl
@[simp] theorem applyReset_led : (applyReset s).led = .unknown := rfl
@[simp] theorem applyReset_ledAssumptions : (applyReset s).ledAssumptions = s.ledAssumptions := rfl
@[simp] theorem applyReset_channelRounding : (applyReset s).channelRounding = s.channelRounding := rfl
@[simp] theorem applyReset_draws : (applyReset s).draws = s.draws := rfl
@[simp] theorem applyReset_resets : (applyReset s).resets = s.resets + 1 := rfl
@[simp] theorem applyReset_trace : (applyReset s).trace = s.trace ++ [.reset] := rfl

/-! ### `convert s` -/

@[simp] theorem convert_phase : (convert s).phase = s.phase := rfl
@[simp] theorem convert_todo : (convert s).todo = s.todo := rfl
@[simp] theorem convert_fault : (convert s).fault = s.fault := rfl
@[simp] theorem convert_status : (convert s).status = s.status := rfl
@[simp] theorem convert_operands : (convert s).operands = s.operands := rfl
@[simp] theorem convert_results : (convert s).results = (channelValues s.channelRounding (normalize s.operands.h (f64OfBits s.operands.s) (f64OfBits s.operands.v)) s.draws).1 := rfl
@[simp] theorem convert_norm : (convert s).norm = normalize s.operands.h (f64OfBits s.operands.s) (f64OfBits s.operands.v) := rfl
@[simp] theorem convert_enc : (convert s).enc = s.enc := rfl
@[simp] theorem convert_host : (convert s).host = s.host := rfl
@[simp] theorem convert_periph : (convert s).periph = s.periph := rfl
@[simp] theorem convert_led : (convert s).led = s.led := rfl
@[simp] theorem convert_ledAssumptions : (convert s).ledAssumptions = s.ledAssumptions := rfl
@[simp] theorem convert_channelRounding : (convert s).channelRounding = s.channelRounding := rfl
@[simp] theorem convert_draws : (convert s).draws = (channelValues s.channelRounding (normalize s.operands.h (f64OfBits s.operands.s) (f64OfBits s.operands.v)) s.draws).2 := rfl
@[simp] theorem convert_resets : (convert s).resets = s.resets := rfl
@[simp] theorem convert_trace : (convert s).trace = s.trace := rfl

end Sys2Proof.Machine
end

