-- ==== Sys2Proof/Laws/Encoder.lean ====
section
/-! SUPPORT. What the validations, the tick duration and the serialising loop give. -/

namespace Sys2Proof.Machine

theorem rgbRejected_eq_false_iff (r g b : U32) :
    rgbRejected r g b = false ↔ r.toNat ≤ 255 ∧ g.toNat ≤ 255 ∧ b.toNat ≤ 255 := by
  simp only [rgbRejected, Bool.or_eq_false_iff, decide_eq_false_iff_not]
  simp only [channelMax]
  omega

theorem rgbRejected_eq_true_iff (r g b : U32) :
    rgbRejected r g b = true ↔ 255 < r.toNat ∨ 255 < g.toNat ∨ 255 < b.toNat := by
  simp only [rgbRejected, Bool.or_eq_true, decide_eq_true_eq]
  simp only [channelMax]
  omega

/-- The tick duration is the exact quotient: it fits 32 bits (41_encoder.md R92). -/
theorem tickDuration_toNat (f : U32) : (tickDuration f).toNat = 1000000000 / f.toNat := by
  simp only [tickDuration, nsPerSecond, BitVec.toNat_ofNat]
  exact Nat.mod_eq_of_lt ((Nat.div_le_self _ _).trans_lt (by norm_num))

/-- The second division of R93 has no result exactly above `10^9` Hz. -/
theorem tickDuration_eq_zero_iff (f : U32) (hf : f ≠ 0) : tickDuration f = 0 ↔ 1000000000 < f.toNat := by
  have hpos : 0 < f.toNat := by
    rcases Nat.eq_zero_or_pos f.toNat with h | h
    · exact absurd (BitVec.eq_of_toNat_eq (by simpa using h)) hf
    · exact h
  rw [← BitVec.toNat_inj, tickDuration_toNat]
  simp [Nat.div_eq_zero_iff]
  omega

/-! ### The serialising loop -/

@[simp] theorem serialiseRounds_freq (r g b : U32) (n : Nat) (e : EncRegs) :
    (serialiseRounds r g b n e).freq = e.freq := by
  induction n generalizing e with
  | zero => rfl
  | succ n ih => exact (ih _).trans rfl

@[simp] theorem serialiseRounds_tickNs (r g b : U32) (n : Nat) (e : EncRegs) :
    (serialiseRounds r g b n e).tickNs = e.tickNs := by
  induction n generalizing e with
  | zero => rfl
  | succ n ih => exact (ih _).trans rfl

@[simp] theorem serialiseRounds_pat0 (r g b : U32) (n : Nat) (e : EncRegs) :
    (serialiseRounds r g b n e).pat0 = e.pat0 := by
  induction n generalizing e with
  | zero => rfl
  | succ n ih => exact (ih _).trans rfl

@[simp] theorem serialiseRounds_pat1 (r g b : U32) (n : Nat) (e : EncRegs) :
    (serialiseRounds r g b n e).pat1 = e.pat1 := by
  induction n generalizing e with
  | zero => rfl
  | succ n ih => exact (ih _).trans rfl

@[simp] theorem serialiseRounds_w (r g b : U32) (n : Nat) (e : EncRegs) :
    (serialiseRounds r g b n e).w = e.w := by
  induction n generalizing e with
  | zero => rfl
  | succ n ih => exact (ih _).trans rfl

/-- `n` rounds from position `i` end at position `i + n` and have written exactly the positions from `i` on. -/
theorem serialiseRounds_seq (r g b : U32) (n : Nat) (e : EncRegs) (h : e.i.toNat + n ≤ 24) :
    (serialiseRounds r g b n e).i.toNat = e.i.toNat + n ∧
      ∀ k (hk : k < 24), (serialiseRounds r g b n e).seq[k] =
        if e.i.toNat ≤ k ∧ k < e.i.toNat + n then e.pat (frameBit r g b k) else e.seq[k] := by
  induction n generalizing e with
  | zero =>
    refine ⟨rfl, fun k _ => ?_⟩
    rw [if_neg (by omega)]
    rfl
  | succ n ih =>
    have hi : (serialiseRound r g b e).i.toNat = e.i.toNat + 1 := by
      simp only [serialiseRound, BitVec.toNat_add]
      simp
      omega
    have hpat : ∀ bit, (serialiseRound r g b e).pat bit = e.pat bit := fun _ => rfl
    obtain ⟨hpos, hseq⟩ := ih (serialiseRound r g b e) (by omega)
    refine ⟨by simp only [serialiseRounds, hpos, hi]; omega, fun k hk => ?_⟩
    simp only [serialiseRounds, hseq k hk, hi, hpat]
    have hround : (serialiseRound r g b e).seq[k] =
        if e.i.toNat = k then e.pat (frameBit r g b e.i.toNat) else e.seq[k] := by
      simp [serialiseRound, Vector.getElem_setIfInBounds]
    rcases Nat.lt_trichotomy e.i.toNat k with hlt | heq | hgt
    · by_cases hin : k < e.i.toNat + (n + 1)
      · rw [if_pos (by omega), if_pos (by omega)]
      · rw [if_neg (by omega), if_neg (by omega), hround, if_neg (by omega)]
    · rw [if_neg (by omega), if_pos (by omega), hround, if_pos heq, heq]
    · rw [if_neg (by omega), if_neg (by omega), hround, if_neg (by omega)]

@[simp] theorem serialise_freq (r g b : U32) (e : EncRegs) : (serialise r g b e).freq = e.freq := by
  simp [serialise]

@[simp] theorem serialise_tickNs (r g b : U32) (e : EncRegs) : (serialise r g b e).tickNs = e.tickNs := by
  simp [serialise]

@[simp] theorem serialise_pat0 (r g b : U32) (e : EncRegs) : (serialise r g b e).pat0 = e.pat0 := by
  simp [serialise]

@[simp] theorem serialise_pat1 (r g b : U32) (e : EncRegs) : (serialise r g b e).pat1 = e.pat1 := by
  simp [serialise]

@[simp] theorem serialise_w (r g b : U32) (e : EncRegs) : (serialise r g b e).w = frameWord r g b := by
  simp [serialise]

@[simp] theorem serialise_i (r g b : U32) (e : EncRegs) : (serialise r g b e).i = 24 := by
  refine BitVec.eq_of_toNat_eq ?_
  unfold serialise
  exact (serialiseRounds_seq r g b frameBits _ (by simp [frameBits])).1.trans (by simp [frameBits])

/-- Every entry is the pattern its bit selects (41_encoder.md R85). -/
theorem serialise_seq (r g b : U32) (e : EncRegs) (k : Nat) (hk : k < 24) :
    (serialise r g b e).seq[k] = e.pat (frameBit r g b k) := by
  unfold serialise
  rw [(serialiseRounds_seq r g b frameBits { e with w := frameWord r g b, i := 0 } (by simp [frameBits])).2 k hk,
    if_pos (by simp [frameBits]; omega)]
  rfl

end Sys2Proof.Machine
end

