-- ==== Sys2Proof/Laws/Float64.lean ====
section
/-! SUPPORT. The laws of rounding: bounds, monotonicity, exactness on binary64 values, and that a rounded value is one. -/

namespace Sys2Proof.Machine

theorem f64Unit_pos : 0 < f64Unit := by
  unfold f64Unit
  exact Nat.two_pow_pos _

/-- The rounded quotient is within half a divisor of the dividend. -/
theorem roundDivEven_bounds (n d : Nat) (hd : 0 < d) :
    2 * (roundDivEven n d * d) ≤ 2 * n + d ∧ 2 * n ≤ 2 * (roundDivEven n d * d) + d := by
  have hdiv := Nat.div_add_mod n d
  have hlt := Nat.mod_lt n hd
  have hcomm : n / d * d = d * (n / d) := Nat.mul_comm _ _
  unfold roundDivEven
  split
  · omega
  · split
    · rw [Nat.add_mul]; omega
    · rcases Nat.mod_two_eq_zero_or_one (n / d) with h | h <;> rw [h]
      · simp only [Nat.add_zero]; omega
      · rw [Nat.add_mul]; omega

/-- At an exact tie the rounded quotient is even. -/
theorem roundDivEven_tie_even (n d : Nat) (ht : 2 * (n % d) = d) : roundDivEven n d % 2 = 0 := by
  unfold roundDivEven
  rw [if_neg (by omega), if_neg (by omega)]
  omega

/-- An exact quotient is kept. -/
theorem roundDivEven_mul (k d : Nat) (hd : 0 < d) : roundDivEven (k * d) d = k := by
  unfold roundDivEven
  simp [Nat.mul_mod_left, hd, Nat.mul_div_cancel k hd]

/-- A whole number is kept. -/
theorem roundDivEven_one (k : Nat) : roundDivEven k 1 = k := by
  have := roundDivEven_mul k 1 one_pos
  rwa [Nat.mul_one] at this

/-- Half way between two multiples means a remainder of half the divisor. -/
theorem mod_eq_half_of_odd_multiple (n d k : Nat) (h : 2 * n = (2 * k + 1) * d) : 2 * (n % d) = d := by
  rcases Nat.eq_zero_or_pos d with rfl | hd
  · simp at h ⊢; omega
  have hq : n / d = k := by
    rw [Nat.div_eq_iff hd]
    have : (2 * k + 1) * d = 2 * (k * d) + d := by ring
    constructor <;> omega
  have hdiv := Nat.div_add_mod n d
  rw [hq] at hdiv
  have : (2 * k + 1) * d = 2 * (d * k) + d := by ring
  omega

/-- Rounding a quotient is monotonic in the quotient's value. -/
theorem roundDivEven_mono (n d n' d' : Nat) (hd : 0 < d) (hd' : 0 < d') (h : n * d' ≤ n' * d) :
    roundDivEven n d ≤ roundDivEven n' d' := by
  by_contra hlt
  obtain ⟨k, hk⟩ : ∃ k, roundDivEven n d = k + 1 := ⟨roundDivEven n d - 1, by omega⟩
  have hle : roundDivEven n' d' ≤ k := by omega
  have h1 := (roundDivEven_bounds n d hd).1
  have h2 := (roundDivEven_bounds n' d' hd').2
  rw [hk] at h1
  have lower : (2 * k + 1) * d ≤ 2 * n := by nlinarith
  have upper : 2 * n' ≤ (2 * k + 1) * d' := by nlinarith [Nat.mul_le_mul_right d' hle]
  have e1 : (2 * k + 1) * d * d' ≤ 2 * n * d' := Nat.mul_le_mul_right _ lower
  have e2 : 2 * n' * d ≤ (2 * k + 1) * d' * d := Nat.mul_le_mul_right _ upper
  have tie : 2 * n = (2 * k + 1) * d := by
    refine Nat.eq_of_mul_eq_mul_right hd' ?_
    nlinarith
  have tie' : 2 * n' = (2 * k + 1) * d' := by
    refine Nat.eq_of_mul_eq_mul_right hd ?_
    nlinarith
  have even := roundDivEven_tie_even n d (mod_eq_half_of_odd_multiple n d k tie)
  have even' := roundDivEven_tie_even n' d' (mod_eq_half_of_odd_multiple n' d' k tie')
  have hge : k ≤ roundDivEven n' d' := by
    have := (roundDivEven_bounds n' d' hd').2
    rw [tie'] at this
    by_contra hc
    have : roundDivEven n' d' + 1 ≤ k := by omega
    nlinarith [Nat.mul_le_mul_right d' this]
  omega

/-- Below `2^53` units the unit in the last place is the unit itself. -/
theorem roundExponent_of_small (num den : Nat) (h : num / den < 2 ^ 53) : roundExponent num den = 0 := by
  unfold roundExponent
  have : (num / den).log2 < 53 := by
    rcases Nat.eq_zero_or_pos (num / den) with h0 | h0
    · rw [h0]; decide
    · exact (Nat.log2_lt (by omega)).2 h
  omega

/-- At a positive exponent the quotient has its leading bit 52 places above it. -/
theorem le_of_roundExponent_pos (num den : Nat) (h : 0 < roundExponent num den) :
    2 ^ (52 + roundExponent num den) ≤ num / den := by
  have hlog : (num / den).log2 = 52 + roundExponent num den := by unfold roundExponent at *; omega
  have hne : num / den ≠ 0 := by
    intro h0
    rw [h0, Nat.log2_zero] at hlog
    omega
  rw [← hlog]
  exact Nat.log2_self_le hne

/-- The quotient has at most 53 bits above the exponent. -/
theorem lt_of_roundExponent (num den : Nat) : num / den < 2 ^ (53 + roundExponent num den) := by
  rcases Nat.eq_zero_or_pos (num / den) with h0 | h0
  · rw [h0]; positivity
  · refine (Nat.log2_lt (by omega)).1 ?_
    unfold roundExponent
    omega

/-- The significand before the exponent is applied is at most `2^53`. -/
theorem roundDivEven_le_significand (num den : Nat) (hden : 0 < den) :
    roundDivEven num (den * 2 ^ roundExponent num den) ≤ 2 ^ 53 := by
  have hpos : 0 < den * 2 ^ roundExponent num den := Nat.mul_pos hden (by positivity)
  have hlt : num < 2 ^ (53 + roundExponent num den) * den :=
    (Nat.div_lt_iff_lt_mul hden).1 (lt_of_roundExponent num den)
  have := roundDivEven_mono num (den * 2 ^ roundExponent num den) (2 ^ 53) 1 hpos one_pos (by
    rw [pow_add] at hlt
    nlinarith)
  rwa [roundDivEven_one] at this

/-- Rounding to 53 significant bits is monotonic in the value of the quotient. -/
theorem roundMagnitude_mono (num den num' den' : Nat) (hden : 0 < den) (hden' : 0 < den')
    (h : num * den' ≤ num' * den) : roundMagnitude num den ≤ roundMagnitude num' den' := by
  have hq : num / den ≤ num' / den' := by
    rw [Nat.le_div_iff_mul_le hden']
    have h1 : num / den * den ≤ num := Nat.div_mul_le_self num den
    have h2 : num / den * den' * den ≤ num' * den := by nlinarith
    exact Nat.le_of_mul_le_mul_right h2 hden
  have he : roundExponent num den ≤ roundExponent num' den' := by
    unfold roundExponent
    have : (num / den).log2 ≤ (num' / den').log2 := by
      rcases Nat.eq_zero_or_pos (num / den) with h0 | h0
      · rw [h0]; simp
      · rw [Nat.le_log2 (by omega)]
        exact (Nat.log2_self_le (by omega)).trans hq
    omega
  unfold roundMagnitude
  rcases Nat.lt_or_ge (roundExponent num den) (roundExponent num' den') with hlt | hge
  · have top := roundDivEven_le_significand num den hden
    have bottom : 2 ^ 52 ≤ roundDivEven num' (den' * 2 ^ roundExponent num' den') := by
      have hle := le_of_roundExponent_pos num' den' (by omega)
      have hle' := (Nat.le_div_iff_mul_le hden').1 hle
      have := roundDivEven_mono (2 ^ 52) 1 num' (den' * 2 ^ roundExponent num' den') one_pos
        (Nat.mul_pos hden' (by positivity)) (by rw [pow_add] at hle'; nlinarith)
      rwa [roundDivEven_one] at this
    calc roundDivEven num (den * 2 ^ roundExponent num den) * 2 ^ roundExponent num den
        ≤ 2 ^ 53 * 2 ^ roundExponent num den := Nat.mul_le_mul_right _ top
      _ = 2 ^ 52 * 2 ^ (roundExponent num den + 1) := by rw [pow_succ, pow_succ]; ring
      _ ≤ 2 ^ 52 * 2 ^ roundExponent num' den' :=
          Nat.mul_le_mul_left _ (Nat.pow_le_pow_right (by norm_num) hlt)
      _ ≤ _ := Nat.mul_le_mul_right _ bottom
  · have heq : roundExponent num den = roundExponent num' den' := by omega
    rw [heq]
    refine Nat.mul_le_mul_right _ (roundDivEven_mono _ _ _ _ (Nat.mul_pos hden (by positivity))
      (Nat.mul_pos hden' (by positivity)) ?_)
    nlinarith [Nat.mul_le_mul_right (2 ^ roundExponent num' den') h]

/-- A binary64 magnitude is kept by rounding. -/
theorem roundMagnitude_of_representable (mag : Nat) (h : RepresentableMag mag) : roundMagnitude mag 1 = mag := by
  obtain ⟨_, m, e, hm, rfl⟩ := h
  have hdvd : 2 ^ roundExponent (m * 2 ^ e) 1 ∣ m * 2 ^ e := by
    rcases Nat.eq_zero_or_pos (roundExponent (m * 2 ^ e) 1) with h0 | h0
    · rw [h0]; simp
    · have hle := le_of_roundExponent_pos _ _ h0
      rw [Nat.div_one] at hle
      have hlt : m * 2 ^ e < 2 ^ (53 + e) := by
        rw [pow_add]; exact Nat.mul_lt_mul_of_pos_right hm (by positivity)
      have := (Nat.pow_lt_pow_iff_right (by norm_num : 1 < 2)).1 (hle.trans_lt hlt)
      exact (pow_dvd_pow 2 (by omega)).mul_left m
  obtain ⟨k, hk⟩ := hdvd
  unfold roundMagnitude
  rw [Nat.one_mul]
  generalize roundExponent (m * 2 ^ e) 1 = x at hk ⊢
  rw [hk, Nat.mul_comm (2 ^ x) k, roundDivEven_mul _ _ (by positivity)]

/-- A rounded magnitude below the limit is a binary64 magnitude. -/
theorem roundMagnitude_representable (num den : Nat) (hden : 0 < den) (hlim : roundMagnitude num den < f64Limit) :
    RepresentableMag (roundMagnitude num den) := by
  refine ⟨hlim, ?_⟩
  have hle := roundDivEven_le_significand num den hden
  unfold roundMagnitude
  rcases Nat.lt_or_ge (roundDivEven num (den * 2 ^ roundExponent num den)) (2 ^ 53) with h | h
  · exact ⟨_, _, h, rfl⟩
  · refine ⟨2 ^ 52, roundExponent num den + 1, by norm_num, ?_⟩
    rw [Nat.le_antisymm hle h, pow_succ, pow_succ]
    ring

/-- What rounding gives is a binary64 datum. -/
theorem f64Round_representable (neg : Bool) (num den : Nat) (hden : 0 < den) :
    Representable (f64Round neg num den) := by
  unfold f64Round
  split
  · exact roundMagnitude_representable num den hden ‹_›
  · trivial

/-- The datum of any 64-bit pattern is a binary64 datum. -/
theorem f64OfBits_representable (b : U64) : Representable (f64OfBits b) := by
  have hfrac : (b.extractLsb' 0 52).toNat < 2 ^ 52 := (b.extractLsb' 0 52).isLt
  have hex : (b.extractLsb' 52 11).toNat < 2 ^ 11 := (b.extractLsb' 52 11).isLt
  unfold f64OfBits
  dsimp only
  split
  · split <;> trivial
  · split
    · refine ⟨hfrac.trans_le ?_, _, 0, hfrac.trans (by norm_num), by simp⟩
      unfold f64Limit
      exact Nat.pow_le_pow_right (by norm_num) (by norm_num)
    · have hm : 2 ^ 52 + (b.extractLsb' 0 52).toNat < 2 ^ 53 := by omega
      refine ⟨?_, _, _, hm, rfl⟩
      calc (2 ^ 52 + (b.extractLsb' 0 52).toNat) * 2 ^ ((b.extractLsb' 52 11).toNat - 1)
          < 2 ^ 53 * 2 ^ ((b.extractLsb' 52 11).toNat - 1) := Nat.mul_lt_mul_of_pos_right hm (by positivity)
        _ = 2 ^ (53 + ((b.extractLsb' 52 11).toNat - 1)) := by rw [pow_add]
        _ ≤ f64Limit := by unfold f64Limit; exact Nat.pow_le_pow_right (by norm_num) (by omega)

end Sys2Proof.Machine
end

