-- ==== Sys2Proof/Laws/Ops.lean ====
section
/-! SUPPORT. Once for each shared operation and for the step: everything it can do. -/

namespace Sys2Proof.Machine

/-! ### The gate before every command -/

theorem whenReady_of_ready {s : State} (run : State → State) (hf : s.fault = false) (hp : s.phase = .idle)
    (ht : s.todo = none) : whenReady s run = .next (run s) := by simp [whenReady, hf, hp, ht]

theorem whenReady_next {s t : State} {run : State → State} (h : whenReady s run = .next t) :
    s.fault = false ∧ s.phase = .idle ∧ s.todo = none ∧ t = run s := by
  unfold whenReady at h
  split at h
  · cases h
  · split at h
    case isFalse => cases h
    case isTrue hready =>
      cases h
      exact ⟨by simpa using ‹¬s.fault = true›, hready.1, hready.2, rfl⟩

theorem whenReady_of_fault {s : State} (run : State → State) (hf : s.fault = true) :
    whenReady s run = .fault .halted := by simp [whenReady, hf]

theorem whenReady_of_busy {s : State} (run : State → State) (hf : s.fault = false)
    (hb : ¬ (s.phase = .idle ∧ s.todo = none)) : whenReady s run = .refused .notIdle := by
  simp only [whenReady, hf, if_neg hb]
  rfl

/-! ### An interface operation and its answer -/

theorem answerAck_unanswered {s : State} (op : PeriphOp) (next : Ack → State → State) (h : s.periph.acks = []) :
    answerAck op next s = .fault .unanswered := by simp [answerAck, h]

theorem answerAck_answered {s : State} {a : Ack} {rest : List Ack} (op : PeriphOp) (next : Ack → State → State)
    (h : s.periph.acks = a :: rest) :
    answerAck op next s =
      .next (next a (record (.periph op (.ack a)) { s with periph := { s.periph with acks := rest } })) := by
  simp [answerAck, h]

theorem answerHz_unanswered {s : State} (op : PeriphOp) (next : U32 → State → State) (h : s.periph.freqs = []) :
    answerHz op next s = .fault .unanswered := by simp [answerHz, h]

theorem answerHz_answered {s : State} {f : U32} {rest : List U32} (op : PeriphOp) (next : U32 → State → State)
    (h : s.periph.freqs = f :: rest) :
    answerHz op next s =
      .next (next f (record (.periph op (.hz f)) { s with periph := { s.periph with freqs := rest } })) := by
  simp [answerHz, h]

theorem answerAck_next {op : PeriphOp} {next : Ack → State → State} {s t : State}
    (h : answerAck op next s = .next t) :
    ∃ a rest, s.periph.acks = a :: rest
      ∧ t = next a (record (.periph op (.ack a)) { s with periph := { s.periph with acks := rest } }) := by
  unfold answerAck at h
  split at h
  · cases h
  case h_2 a rest hacks =>
    cases h
    exact ⟨a, rest, hacks, rfl⟩

theorem answerHz_next {op : PeriphOp} {next : U32 → State → State} {s t : State}
    (h : answerHz op next s = .next t) :
    ∃ f rest, s.periph.freqs = f :: rest
      ∧ t = next f (record (.periph op (.hz f)) { s with periph := { s.periph with freqs := rest } }) := by
  unfold answerHz at h
  split at h
  · cases h
  case h_2 f rest hfreqs =>
    cases h
    exact ⟨f, rest, hfreqs, rfl⟩

/-! ### What follows the answers -/

/-- A frequency leads to a `TickFault` or to the submission, and to nothing else (41_encoder.md R93). -/
theorem onFrequency_cases (f : U32) (s : State) :
    (f = 0 ∧ onFrequency f s = raise .tickFault { s with enc := { s.enc with freq := f } })
    ∨ (f ≠ 0 ∧ tickDuration f = 0 ∧
        onFrequency f s = raise .tickFault { s with enc := { s.enc with freq := f, tickNs := tickDuration f } })
    ∨ (f ≠ 0 ∧ tickDuration f ≠ 0 ∧ onFrequency f s =
        startWrite (buildFrame { s with enc := { s.enc with freq := f, tickNs := tickDuration f } })) := by
  by_cases hf : f = 0
  · exact .inl ⟨hf, by simp [onFrequency, hf]⟩
  · by_cases ht : tickDuration f = 0
    · exact .inr (.inl ⟨hf, ht, by simp only [onFrequency, if_neg hf, if_pos ht]⟩)
    · exact .inr (.inr ⟨hf, ht, by simp only [onFrequency, if_neg hf, if_neg ht]⟩)

/-- Validation ends in the error or passes on to `configure`, and nothing else (41_encoder.md R81). -/
theorem encodeAndSend_cases (s : State) :
    (rgbRejected s.operands.r s.operands.g s.operands.b = true ∧ encodeAndSend s = raise .invalidArgument s)
    ∨ (rgbRejected s.operands.r s.operands.g s.operands.b = false ∧ encodeAndSend s = startConfigure s) := by
  cases h : rgbRejected s.operands.r s.operands.g s.operands.b
  · exact .inr ⟨rfl, by simp [encodeAndSend, h]⟩
  · exact .inl ⟨rfl, by simp [encodeAndSend, h]⟩

/-- Validation ends in the error or passes on to the conversion, and nothing else (40_normalizer.md R61, R73). -/
theorem convertThen_cases (next : State → State) (s : State) :
    (hsvRejected s.operands.h (f64OfBits s.operands.s) (f64OfBits s.operands.v) = true ∧
      convertThen next s = raise .invalidArgument { s with phase := .converting })
    ∨ (hsvRejected s.operands.h (f64OfBits s.operands.s) (f64OfBits s.operands.v) = false ∧
      convertThen next s = next (convert { s with phase := .converting })) := by
  cases h : hsvRejected s.operands.h (f64OfBits s.operands.s) (f64OfBits s.operands.v)
  · exact .inr ⟨rfl, by simp [convertThen, h]⟩
  · exact .inl ⟨rfl, by simp [convertThen, h]⟩

/-! ### The commands and the step -/

/-- A command that has a next state was taken by a block that was ready, and is one of the three. -/
theorem exec_next {i : Instr} {s t : State} (h : exec i s = .next t) :
    s.fault = false ∧ s.phase = .idle ∧ s.todo = none ∧
      ((∃ r g b, i = .setrgb r g b ∧ t = encodeAndSend (accept i s))
      ∨ (∃ hue sat val, i = .sethsv hue sat val ∧
          t = convertThen (fun s => encodeAndSend (handOver s)) (accept i s))
      ∨ (∃ hue sat val, i = .hsv2rgb hue sat val ∧
          t = convertThen (goOn (.complete .ok)) (accept i s))) := by
  cases i with
  | setrgb r g b =>
    simp only [exec, execSetrgb] at h
    obtain ⟨hf, hp, ht, rfl⟩ := whenReady_next h
    exact ⟨hf, hp, ht, .inl ⟨r, g, b, rfl, rfl⟩⟩
  | sethsv hue sat val =>
    simp only [exec, execSethsv] at h
    obtain ⟨hf, hp, ht, rfl⟩ := whenReady_next h
    exact ⟨hf, hp, ht, .inr (.inl ⟨hue, sat, val, rfl, rfl⟩)⟩
  | hsv2rgb hue sat val =>
    simp only [exec, execHsv2rgb] at h
    obtain ⟨hf, hp, ht, rfl⟩ := whenReady_next h
    exact ⟨hf, hp, ht, .inr (.inr ⟨hue, sat, val, rfl, rfl⟩)⟩
  | reservedOp11 =>
    simp only [exec, execReservedOp11] at h
    split at h <;> cases h

/-- The one of the five continuations that the answer of an outstanding operation leads to. -/
theorem answer_next {op : PeriphOp} {s t : State} (h : answer op s = .next t) :
    (∃ f rest, (∃ ch, op = .getClockFrequency ch) ∧ s.periph.freqs = f :: rest ∧
      t = onFrequency f (record (.periph op (.hz f)) { s with periph := { s.periph with freqs := rest } }))
    ∨ ∃ a rest next, s.periph.acks = a :: rest ∧
        t = next a (record (.periph op (.ack a)) { s with periph := { s.periph with acks := rest } }) ∧
        (((∃ pin ch div lp, op = .configure pin ch div lp) ∧ next = onConfigure)
        ∨ ((∃ ch, op = .install ch) ∧ next = onInstall)
        ∨ ((∃ ch seq wait, op = .write ch seq wait) ∧ next = onWrite)
        ∨ ((∃ ch, op = .uninstall ch) ∧ next = onUninstall)) := by
  cases op with
  | configure pin ch div lp =>
    obtain ⟨a, rest, ha, rfl⟩ := answerAck_next h
    exact .inr ⟨a, rest, onConfigure, ha, rfl, .inl ⟨⟨pin, ch, div, lp, rfl⟩, rfl⟩⟩
  | install ch =>
    obtain ⟨a, rest, ha, rfl⟩ := answerAck_next h
    exact .inr ⟨a, rest, onInstall, ha, rfl, .inr (.inl ⟨⟨ch, rfl⟩, rfl⟩)⟩
  | getClockFrequency ch =>
    obtain ⟨f, rest, hf, rfl⟩ := answerHz_next h
    exact .inl ⟨f, rest, ⟨ch, rfl⟩, hf, rfl⟩
  | write ch seq wait =>
    obtain ⟨a, rest, ha, rfl⟩ := answerAck_next h
    exact .inr ⟨a, rest, onWrite, ha, rfl, .inr (.inr (.inl ⟨⟨ch, seq, wait, rfl⟩, rfl⟩))⟩
  | uninstall ch =>
    obtain ⟨a, rest, ha, rfl⟩ := answerAck_next h
    exact .inr ⟨a, rest, onUninstall, ha, rfl, .inr (.inr (.inr ⟨⟨ch, rfl⟩, rfl⟩))⟩

/-- The next step of a command in progress is an answer, its completion or its fatal error. -/
theorem advance_next {next : CommandStep} {s t : State} (h : advance next s = .next t) :
    (∃ op, next = .ask op ∧ answer op s = .next t) ∨ (∃ o, next = .complete o ∧ t = complete o s)
    ∨ ∃ e, next = .fatal e ∧ t = enterFault e s := by
  cases next with
  | ask op => exact .inl ⟨op, rfl, h⟩
  | complete o =>
    cases h
    exact .inr (.inl ⟨o, rfl, rfl⟩)
  | fatal e =>
    cases h
    exact .inr (.inr ⟨e, rfl, rfl⟩)

theorem step_of_resetReq {s : State} (h : s.host.resetReq = true) : step s = .next (applyReset s) := by
  simp [step, h]

theorem step_of_fault {s : State} (hr : s.host.resetReq = false) (hf : s.fault = true) :
    step s = .fault .halted := by simp [step, hr, hf]

theorem step_of_todo {s : State} {next : CommandStep} (hr : s.host.resetReq = false) (hf : s.fault = false)
    (ht : s.todo = some next) : step s = advance next s := by simp [step, hr, hf, ht]

theorem step_of_waiting {s : State} (hr : s.host.resetReq = false) (hf : s.fault = false) (ht : s.todo = none)
    (hc : s.host.cmds = []) : step s = .next s := by simp [step, hr, hf, ht, nextCommand, hc]

theorem step_of_command {s : State} {w : CmdWord} {rest : List CmdWord} (hr : s.host.resetReq = false)
    (hf : s.fault = false) (ht : s.todo = none) (hc : s.host.cmds = w :: rest) :
    step s = exec (decode w) { s with host := { s.host with cmds := rest } } := by
  simp [step, hr, hf, ht, nextCommand, hc]

/-- Everything a step that has a next state can be. -/
theorem step_next {s t : State} (h : step s = .next t) :
    (s.host.resetReq = true ∧ t = applyReset s)
    ∨ (s.host.resetReq = false ∧ s.fault = false ∧
        ((∃ next, s.todo = some next ∧ advance next s = .next t)
        ∨ (s.todo = none ∧ s.host.cmds = [] ∧ t = s)
        ∨ (∃ w rest, s.todo = none ∧ s.host.cmds = w :: rest ∧
            exec (decode w) { s with host := { s.host with cmds := rest } } = .next t))) := by
  unfold step at h
  split at h
  · cases h
    exact .inl ⟨‹_›, rfl⟩
  · split at h
    · cases h
    · refine .inr ⟨by simpa using ‹¬s.host.resetReq = true›, by simpa using ‹¬s.fault = true›, ?_⟩
      cases ht : s.todo with
      | some next => exact .inl ⟨next, rfl, by simpa [ht] using h⟩
      | none =>
        cases hc : s.host.cmds with
        | nil =>
          simp only [ht, nextCommand, hc] at h
          cases h
          exact .inr (.inl ⟨rfl, rfl, rfl⟩)
        | cons w rest =>
          simp only [ht, nextCommand, hc] at h
          exact .inr (.inr ⟨w, rest, rfl, rfl, h⟩)

/-! ### Several steps -/

@[simp] theorem run_zero (s : State) : run 0 s = .next s := rfl

theorem run_succ {s t : State} (n : Nat) (h : step s = .next t) : run (n + 1) s = run n t := by simp [run, h]

/-- A run is a first step and a run of the rest. -/
theorem run_succ_next {s u : State} {n : Nat} (h : run (n + 1) s = .next u) :
    ∃ t, step s = .next t ∧ run n t = .next u := by
  cases hs : step s with
  | next t => exact ⟨t, rfl, by rwa [run_succ n hs] at h⟩
  | fault r => simp [run, hs] at h
  | refused r => simp [run, hs] at h

theorem inProgress_zero (s : State) : InProgress 0 s := by
  intro m hm
  omega

/-- A command in progress takes one more step. -/
theorem inProgress_succ {s t : State} {n : Nat} (htodo : s.todo ≠ none) (h : step s = .next t) :
    InProgress (n + 1) s ↔ InProgress n t := by
  constructor
  · intro hs m hm u hu
    exact hs (m + 1) (by omega) u (by rwa [run_succ m h])
  · intro ht m hm u hu
    cases m with
    | zero =>
      cases hu
      exact htodo
    | succ m => exact ht m (by omega) u (by rwa [run_succ m h] at hu)

/-- The induction over a command, once: what holds right after its `accept` and is kept by every further step of it
holds of every state it reaches. -/
theorem commandReaches_induction {i : Instr} {s t : State} {P : State → Prop} (h : CommandReaches i s t)
    (hbegun : ∀ u, exec i s = .next u → P u)
    (hstep : ∀ u v, P u → u.todo ≠ none → step u = .next v → P v) : P t := by
  obtain ⟨begun, n, hexec, hin, hrun⟩ := h
  have hP := hbegun begun hexec
  clear hexec
  induction n generalizing begun with
  | zero =>
    cases hrun
    exact hP
  | succ n ih =>
    obtain ⟨u, hu, hrun⟩ := run_succ_next hrun
    have htodo : begun.todo ≠ none := hin 0 (by omega) begun rfl
    exact ih u ((inProgress_succ htodo hu).mp hin) hrun (hstep begun u hP htodo hu)

end Sys2Proof.Machine
end

