-- ==== Sys2Proof/Laws/PerInstr.lean ====
section
/-! SUPPORT. Statements made for each instruction. -/

namespace Sys2Proof.Laws

/-- The operation field of an instruction's word is the one its row of the opcode table fixes (30_encoding.md R46). -/
def OperationField.Statement (i : Instr) : Prop :=
  opField (encode i) =
    match i with
    | .setrgb _ _ _  => 0
    | .sethsv _ _ _  => 1
    | .hsv2rgb _ _ _ => 2
    | .reservedOp11  => 3

theorem OperationField.setrgb (r g b : U32) : OperationField.Statement (.setrgb r g b) := by
  refine BitVec.eq_of_getLsbD_eq fun i hi => ?_
  simp only [opField_getLsbD, encode, BitVec.getLsbD_or, atBit_getLsbD]
  interval_cases i <;> simp [BitVec.getLsbD_of_ge]

theorem OperationField.sethsv (h : U32) (s v : U64) : OperationField.Statement (.sethsv h s v) := by
  refine BitVec.eq_of_getLsbD_eq fun i hi => ?_
  simp only [opField_getLsbD, encode, BitVec.getLsbD_or, atBit_getLsbD]
  interval_cases i <;> simp [BitVec.getLsbD_of_ge]

theorem OperationField.hsv2rgb (h : U32) (s v : U64) : OperationField.Statement (.hsv2rgb h s v) := by
  refine BitVec.eq_of_getLsbD_eq fun i hi => ?_
  simp only [opField_getLsbD, encode, BitVec.getLsbD_or, atBit_getLsbD]
  interval_cases i <;> simp [BitVec.getLsbD_of_ge]

theorem OperationField.reservedOp11 : OperationField.Statement .reservedOp11 := by
  unfold OperationField.Statement
  decide

end Sys2Proof.Laws
end

