-- ==== Sys2Proof/Tests/Slice0.lean ====
section
/-! SUPPORT. Tests whose expected results stand in spec/95_test_vectors.md or in a numbered rule, and for every
statement that has hypotheses a concrete state and operands that meet them. -/

open Sys2Proof Sys2Proof.Machine Sys2Proof.Claims

namespace Sys2Proof.Tests

-- One test after the other: every `decide +kernel` that waits for the kernel would hold a thread of its own.
set_option Elab.async false

/-! ### Helpers: a state without a free value -/

def zeroFloat : F64 := .fin false 0

def zeroPattern : Pattern := { high := 0, low := 0 }

/-- A block ready for a command. -/
def ready (cmds : List CmdWord) (acks : List Ack) (freqs : List U32) : State where
  phase := .idle
  todo := none
  fault := false
  status := 0
  operands := { op := 0, h := 0, s := 0, v := 0, r := 0, g := 0, b := 0 }
  results := { rout := 0, gout := 0, bout := 0 }
  norm := { c := zeroFloat, hq := zeroFloat, hm := zeroFloat, t := zeroFloat, k := zeroFloat, x := zeroFloat,
            m := zeroFloat, rp := zeroFloat, gp := zeroFloat, bp := zeroFloat }
  enc := { freq := 0, tickNs := 0, pat0 := zeroPattern, pat1 := zeroPattern, seq := Vector.replicate 24 zeroPattern,
           w := 0, i := 0 }
  host := { cmds := cmds, resetReq := false }
  periph := { acks := acks, freqs := freqs, condition := .unknown, frame := none }
  led := .unknown
  ledAssumptions := { frameCompletes := true, withinTolerance := true, readsGreenRedBlue := true }
  channelRounding := .trunc
  draws := 0
  resets := 0
  trace := []

/-- The four `ok` answers of a transmission. -/
def allOk : List Ack := [.ok, .ok, .ok, .ok]

/-- What a test looks at in a next state; `none` for a fault or a refusal. -/
def look {α : Type} (f : State → α) : StepOutcome → Option α
  | .next t    => some (f t)
  | .fault _   => none
  | .refused _ => none

/-- The name of an event without its arguments. -/
def eventName : Event → String
  | .accept _ => "accept"
  | .periph (.configure _ _ _ _) _ => "configure"
  | .periph (.install _) _ => "install"
  | .periph (.getClockFrequency _) _ => "get_clock_frequency"
  | .periph (.write _ _ _) _ => "write"
  | .periph (.uninstall _) _ => "uninstall"
  | .complete _ => "complete"
  | .fatal _ => "fatal"
  | .reset => "reset"

def names (s : State) : List String := s.trace.map eventName

/-- A block stuck after a fatal error. -/
def dead (resetReq : Bool) : State :=
  { ready [0] allOk [20000000] with phase := .fault, fault := true, host := { cmds := [0], resetReq := resetReq } }

/-- A block with an operation outstanding. -/
def outstanding (op : PeriphOp) : State := { ready [] [] [] with phase := op.phase, todo := some (.ask op) }

/-- A command and `n` further steps. -/
def after (n : Nat) (i : Instr) (s : State) : StepOutcome :=
  match exec i s with
  | .next t    => run n t
  | .fault r   => .fault r
  | .refused r => .refused r

theorem ready_ready (cmds : List CmdWord) (acks : List Ack) (freqs : List U32) : Ready (ready cmds acks freqs) :=
  ⟨rfl, rfl, rfl⟩

theorem ready_undisturbed (cmds : List CmdWord) (acks : List Ack) (freqs : List U32) :
    Undisturbed (ready cmds acks freqs) := ⟨⟨rfl, rfl, rfl⟩, rfl⟩

/-- A command that has come to its end after `n` further steps, with nothing left of it only then. -/
theorem commandEnds_of_run {i : Instr} {s begun t : State} (n : Nat) (hexec : exec i s = .next begun)
    (hin : InProgress n begun) (hrun : run n begun = .next t) (ht : t.todo = none) : CommandEnds i s t :=
  ⟨⟨begun, n, hexec, hin, hrun⟩, ht⟩

theorem inProgress_one {s : State} (h : s.todo ≠ none) : InProgress 1 s := by
  intro m hm t ht
  obtain rfl : m = 0 := by omega
  cases ht
  exact h

theorem valid_rgb : ¬ RgbInvalid 18 52 86 := by unfold RgbInvalid; decide

theorem widest_rgb : ¬ RgbInvalid 255 255 255 := by unfold RgbInvalid; decide

theorem invalid_rgb : RgbInvalid 256 0 0 ∧ RgbInvalid 0 256 0 ∧ RgbInvalid 0 0 256 := by unfold RgbInvalid; decide

theorem valid_hsv : ¬ HsvInvalid 360 0x3FF0000000000000 0x3FF0000000000000 := by unfold HsvInvalid; decide +kernel

theorem invalid_hsv : HsvInvalid 361 0 0 ∧ HsvInvalid 0 0x3FF0000000000001 0 ∧ HsvInvalid 0 0 0x3FF0000000000001 := by
  unfold HsvInvalid; decide +kernel

/-! ### Well-formedness (30_encoding.md R51, R52) -/

theorem test_wellFormed_refuses_the_reserved_operation : Instr.reservedOp11.wellFormed = false := by decide

theorem test_wellFormed_takes_the_widest_operands :
    (Instr.setrgb 0xFFFFFFFF 0xFFFFFFFF 0xFFFFFFFF).wellFormed = true
      ∧ (Instr.sethsv 0xFFFFFFFF 0xFFFFFFFFFFFFFFFF 0).wellFormed = true := by decide

/-! ### Decoding (95_test_vectors.md section 5) -/

theorem test_decode_setrgb_W2 : decode 0x00000001200000034000000560000000000000000 = .setrgb 18 52 86 := by
  decide +kernel

theorem test_decode_setrgb_W4 : decode 0x00000000100000080000000ff0000000000000000 = .setrgb 1 128 255 := by
  decide +kernel

theorem test_decode_sethsv_W11 : decode 0x10000016900000000000000000000000000000000 = .sethsv 361 0 0 := by
  decide +kernel

theorem test_decode_sethsv_W14 :
    decode 0x100000000bff00000000000003ff0000000000000 = .sethsv 0 0xBFF0000000000000 0x3FF0000000000000 := by
  decide +kernel

theorem test_decode_hsv2rgb_W21 :
    decode 0x20000002d3fd33333333333333fe6666666666666 = .hsv2rgb 45 0x3FD3333333333333 0x3FE6666666666666 := by
  decide +kernel

theorem test_decode_reserved_W23 : decode 0x30000000000000000000000000000000000003039 = .reservedOp11 := by
  decide +kernel

theorem test_encode_setrgb_W6 : encode (.setrgb 170 85 204) = 0x0000000aa00000055000000cc0000000000000000 := by
  decide +kernel

theorem test_encode_sethsv_W13 :
    encode (.sethsv 300 0x3FE0000000000000 0x3FF0000000000000) = 0x10000012c3fe00000000000003ff0000000000000 := by
  decide +kernel

theorem test_decodeTableWord : decodeTableWord 168 0x2000000143ff00000000000003ff0000000000000
    = some (.hsv2rgb 20 0x3FF0000000000000 0x3FF0000000000000) := by decide +kernel

/-- The word of `withFetchWord` is what the next step runs, from reset (E11). -/
theorem test_withFetchWord_runs_the_word :
    look (fun t => (t.todo, t.operands.r)) (step (State.reset.withFetchWord 168 0x00000010000000000000000000000000000000000))
      = some (some (.complete .invalidArgument), 256) := by decide +kernel

/-! ### HSV2RGB (95_test_vectors.md sections 1, 2) -/

/-- V36: every step rounds on its own. -/
theorem test_hsv2rgb_V36 :
    look (fun t => (t.status, t.results))
        (after 1 (.hsv2rgb 45 0x3FD3333333333333 0x3FE6666666666666) (ready [] [] []))
      = some (0, { rout := 178, gout := 165, bout := 124 }) := by decide +kernel

/-- V45 and its working register `C = 0.04000000000000001` (pattern `0x3FA47AE147AE147C`). -/
theorem test_hsv2rgb_V45 :
    look (fun t => (t.results, f64ToBits t.norm.c))
        (exec (.hsv2rgb 150 0x3FC999999999999A 0x3FC999999999999A) (ready [] [] []))
      = some ({ rout := 40, gout := 51, bout := 45 }, 0x3FA47AE147AE147C) := by decide +kernel

/-- V36 under `NEAREST`. -/
theorem test_hsv2rgb_V36_nearest :
    look (fun t => (t.status, t.results, t.channelRounding))
        (after 1 (.hsv2rgb 45 0x3FD3333333333333 0x3FE6666666666666)
          { ready [] [] [] with channelRounding := .nearest })
      = some (0, { rout := 179, gout := 165, bout := 125 }, .nearest) := by decide +kernel

/-- The example of 41_encoder.md R90 under `NEAREST`: `W = 0x800000`. -/
theorem test_sethsv_nearest :
    look (fun t => (t.status, t.enc.w))
        (after 6 (.sethsv 120 0x3FF0000000000000 0x3FE0000000000000)
          { ready [] allOk [20000000] with channelRounding := .nearest })
      = some (0, 0x800000) := by decide +kernel

/-! ### SETRGB and SETHSV (95_test_vectors.md sections 3, 4) -/

/-- E6 up to its answers: `SETRGB 18, 52, 86` at 20 MHz shows its colour and submits 24 patterns. -/
theorem test_setrgb_transmits :
    look (fun t => (t.status, t.led, t.enc.w, t.enc.pat0, t.enc.pat1)) (after 6 (.setrgb 18 52 86) (ready [] allOk [20000000]))
      = some (0, .rgb 18 52 86, 0x341256, { high := 8, low := 17 }, { high := 16, low := 9 }) := by decide +kernel

/-- E9: a frequency above `10^9`. -/
theorem test_setrgb_tick_fault :
    look (fun t => (names t, t.status, t.phase)) (after 4 (.setrgb 18 52 86) (ready [] allOk [1000000001]))
      = some (["accept", "configure", "install", "get_clock_frequency", "fatal"], 3, .fault) := by decide +kernel

/-- H6: `SETHSV 0, -0.5, 0.5` is transmitted with `W = 0xBF7FBF`. -/
theorem test_sethsv_H6 :
    look (fun t => (names t, t.status, t.enc.w))
        (after 6 (.sethsv 0 0xBFE0000000000000 0x3FE0000000000000) (ready [] allOk [20000000]))
      = some (["accept", "configure", "install", "get_clock_frequency", "write", "uninstall", "complete"], 0, 0xBF7FBF) := by
  decide +kernel

/-- O1: converted channels 255, 510, 510: no peripheral event, `STATUS = 1`. -/
theorem test_sethsv_rejects_its_channels :
    look (fun t => (names t, t.status, t.results))
        (after 1 (.sethsv 0 0xBFF0000000000000 0x3FF0000000000000) (ready [] allOk [20000000]))
      = some (["accept", "complete"], 1, { rout := 255, gout := 510, bout := 510 }) := by decide +kernel

/-- R100, R135: a reset lands between two operations of a command. -/
theorem test_reset_between_two_operations :
    look (fun t => (names t, t.phase, t.todo))
        (match after 1 (.setrgb 18 52 86) (ready [] allOk [20000000]) with
          | .next t => step { t with host := { t.host with resetReq := true } }
          | o => o)
      = some (["accept", "configure", "reset"], .idle, none) := by decide +kernel

/-- E13: nothing is taken while `FAULT = 1`. -/
theorem test_dead_block_takes_nothing : step (dead false) = .fault .halted := rfl

/-! ### The hypotheses of every statement can be met -/

theorem witness_EncodeOfDecodeKeepsEveryReadBit : 0 < 162 ∧ 161 < 162 := by decide

theorem witness_IgnoredBitsOfSetrgbChangeNothing :
    (ready [] [] []).host.resetReq = false ∧ (ready [] [] []).todo = none
      ∧ (0x0000000ff0000000000000000deadbeefdeadbeef : CmdWord).extractLsb' 160 2 = 0
      ∧ (0x0000000ff0000000000000000deadbeefdeadbeef : CmdWord) >>> 64 = 0x0000000ff00000000000000000000000000000000 >>> 64 := by
  decide +kernel

theorem witness_ReservedWordIsRefused :
    Ready (ready [] [] []) ∧ (ready [] [] []).host.resetReq = false
      ∧ (0x30000000000000000000000000000000000003039 : CmdWord).extractLsb' 160 2 = 3 :=
  ⟨ready_ready _ _ _, rfl, by decide +kernel⟩

theorem witness_EveryOtherWordIsAccepted :
    Undisturbed (ready [] [] [])
      ∧ (encode (.setrgb 256 0 0)).extractLsb' 160 2 ≠ 3 ∧ decode (encode (.setrgb 256 0 0)) = .setrgb 256 0 0
      ∧ (encode (.sethsv 361 0 0)).extractLsb' 160 2 ≠ 3 ∧ decode (encode (.sethsv 361 0 0)) = .sethsv 361 0 0
      ∧ (encode (.hsv2rgb 361 0 0)).extractLsb' 160 2 ≠ 3 ∧ decode (encode (.hsv2rgb 361 0 0)) = .hsv2rgb 361 0 0
      ∧ RgbInvalid 256 0 0 ∧ HsvInvalid 361 0 0 :=
  ⟨ready_undisturbed _ _ _, by decide +kernel, by decide +kernel, by decide +kernel, by decide +kernel,
    by decide +kernel, by decide +kernel, invalid_rgb.1, invalid_hsv.1⟩

theorem witness_OpcodeTableSelectsTheInstruction :
    (encode (.setrgb 1 2 3)).extractLsb' 160 2 = 0 ∧ (encode (.sethsv 1 2 3)).extractLsb' 160 2 = 1
      ∧ (encode (.hsv2rgb 1 2 3)).extractLsb' 160 2 = 2 ∧ (encode .reservedOp11).extractLsb' 160 2 = 3
      ∧ opcodeTable.length = 4 := by decide +kernel

theorem witness_StepRunsTheDecodedInstruction :
    (ready [0] [] []).host.resetReq = false ∧ Ready (ready [0] [] []) ∧ (ready [0] [] []).host.cmds = [0] :=
  ⟨rfl, ready_ready _ _ _, rfl⟩

/-- Clause by clause: a ready state, a state in another phase, a state in `Idle` before the last event of a command. -/
theorem witness_CommandIsTakenExactlyWhenIdle :
    (Instr.hsv2rgb 0 0 0).wellFormed = true
      ∧ (outstanding (.install 0)).fault = false ∧ ¬ Ready (outstanding (.install 0))
      ∧ look (fun t => (t.phase, t.todo)) (exec (.setrgb 256 0 0) (ready [] [] []))
          = some (.idle, some (.complete .invalidArgument))
      ∧ look State.phase (exec (.hsv2rgb 0 0 0) (ready [] [] [])) = some .converting :=
  ⟨rfl, rfl, by simp [Ready, outstanding], by decide +kernel, by decide +kernel⟩

theorem witness_FaultHoldsUntilReset :
    (dead false).fault = true ∧ (dead false).host.resetReq = false ∧ (dead true).fault = true
      ∧ look State.fault (step (dead true)) = some false := by decide +kernel

theorem witness_UnansweredOperationIsStuck :
    (outstanding (.getClockFrequency 0)).todo = some (.ask (.getClockFrequency 0))
      ∧ (outstanding (.getClockFrequency 0)).periph.freqs = []
      ∧ (outstanding (.configure 0 0 0 false)).todo = some (.ask (.configure 0 0 0 false))
      ∧ (outstanding (.install 0)).todo = some (.ask (.install 0))
      ∧ (outstanding (.uninstall 0)).todo = some (.ask (.uninstall 0))
      ∧ (outstanding (.install 0)).periph.acks = [] ∧ (outstanding (.install 0)).fault = false
      ∧ (outstanding (.install 0)).host.resetReq = false := by decide +kernel

/-- Clause by clause: waiting, an accept, a query's answer, an `ok`, a `complete`, a fatal error. -/
theorem witness_EveryOperationIsOneStep :
    look (fun t => t.trace.length) (step (ready [] [] [])) = some 0
      ∧ look names (step (ready [0] [] [])) = some ["accept"]
      ∧ look names (step { outstanding (.getClockFrequency 0) with
          periph := { (ready [] [] []).periph with freqs := [0] } }) = some ["get_clock_frequency"]
      ∧ look names (step { outstanding (.install 0) with
          periph := { (ready [] [] []).periph with acks := [.ok] } }) = some ["install"]
      ∧ look names (step { ready [] [] [] with todo := some (.complete .ok) }) = some ["complete"]
      ∧ look names (step { ready [] [] [] with todo := some (.fatal .tickFault) }) = some ["fatal"] := by decide +kernel

/-- The command is taken, and its first operation is answered. -/
theorem witness_LateAnswersGiveTheSameOutcome :
    ∃ t u, exec (.setrgb 1 2 3) (ready [] [.ok] []) = .next t ∧ t.todo = some (.ask configureOp)
      ∧ run 1 t = .next u ∧ u.todo = some (.ask installOp) := ⟨_, _, rfl, rfl, rfl, rfl⟩

theorem witness_ResetIssuesNothingAndClearsFault :
    (dead true).host.resetReq = true ∧ (dead true).fault = true
      ∧ look (fun t => (t.fault, t.phase)) (step (dead true)) = some (false, .idle) := by decide +kernel

theorem witness_RoundingIsToNearestTiesToEven :
    0 < 3 ∧ 1 < (2 ^ 2098 - 2 ^ 2044) * 3 ∧ (2 ^ 2098 - 2 ^ 2044) * 1 ≤ 2 ^ 2098 - 2 ^ 2044
      ∧ RepresentableMag 0 ∧ RepresentableMag 1 := by
  refine ⟨by decide, by decide +kernel, by decide +kernel, ⟨by decide +kernel, 0, 0, by decide, by decide⟩,
    ⟨by decide +kernel, 1, 0, by decide, by decide⟩⟩

theorem witness_FloatOperationsGiveBinary64Data :
    Representable (f64OfNat 5) ∧ Representable (.fin true 3) ∧ 0 < 3 ∧ Representable .nan := by
  refine ⟨⟨by decide +kernel, 5, 1074, by decide, by decide +kernel⟩, ⟨by decide +kernel, 3, 0, by decide, by decide⟩,
    by decide, trivial⟩

theorem witness_HsvValidation :
    Undisturbed (ready [] [] []) ∧ HsvInvalid 361 0 0 ∧ HsvInvalid 0 0x3FF0000000000001 0 ∧ HsvInvalid 0 0 0x3FF0000000000001
      ∧ ¬ HsvInvalid 360 0x3FF0000000000000 0x3FF0000000000000 :=
  ⟨ready_undisturbed _ _ _, invalid_hsv.1, invalid_hsv.2.1, invalid_hsv.2.2, valid_hsv⟩

theorem witness_Hsv2rgbConverts :
    Undisturbed (ready [] [] []) ∧ ¬ HsvInvalid 360 0x3FF0000000000000 0x3FF0000000000000 := ⟨ready_undisturbed _ _ _, valid_hsv⟩

theorem witness_Hsv2rgbFrame :
    (∃ t, CommandEnds (.hsv2rgb 361 0 0) (ready [] [] []) t)
      ∧ look State.todo (exec (.hsv2rgb 360 0 0) (ready [] [] [])) = some (some (.complete .ok))
      ∧ (ready [] [] []).host.resetReq = false ∧ HsvInvalid 361 0 0 := by
  refine ⟨⟨_, commandEnds_of_run 1 rfl (inProgress_one ?_) rfl rfl⟩, by decide +kernel, rfl, invalid_hsv.1⟩
  intro h
  cases h

theorem witness_InContractChannelsStayInRange :
    hsvInContract 360 0x3FF0000000000000 0x3FF0000000000000 = true ∧ hsvInContract 0 0x8000000000000000 0 = true
      ∧ look State.status (after 6 (.sethsv 360 0x3FF0000000000000 0x3FF0000000000000) (ready [] allOk [1])) = some 0 := by
  decide +kernel

theorem witness_SectorBoundariesAreExact :
    ∀ k ∈ [0, 1, 2, 3, 4, 5, 6],
      hsvInContract (BitVec.ofNat 32 (60 * k)) 0x3FE0000000000000 0x3FF0000000000000 = true := by decide +kernel

/-- A NaN saturation, with both hues. -/
theorem witness_Hue360GivesWhatHue0Gives :
    (ready [] [] []).host.resetReq = false
      ∧ (∃ t, CommandEnds (.hsv2rgb 0 0x7FF8000000000000 0) (ready [] [] []) t)
      ∧ ∃ t, CommandEnds (.hsv2rgb 360 0x7FF8000000000000 0) (ready [] [] []) t := by
  refine ⟨rfl, ⟨_, commandEnds_of_run 1 rfl (inProgress_one ?_) rfl rfl⟩,
    ⟨_, commandEnds_of_run 1 rfl (inProgress_one ?_) rfl rfl⟩⟩ <;>
  · intro h
    cases h

theorem witness_ZeroSaturationIsGreyAndZeroValueIsBlack :
    Undisturbed (ready [] [] []) ∧ hsvInContract 360 0 0x3FF0000000000000 = true
      ∧ hsvInContract 360 0x3FF0000000000000 0 = true := ⟨ready_undisturbed _ _ _, by decide +kernel, by decide +kernel⟩

/-- In contract, and with `-inf` as the other operand. -/
theorem witness_SignOfZeroDoesNotShow :
    Undisturbed (ready [] [] []) ∧ ¬ HsvInvalid 0 0 0x3FF0000000000000 ∧ ¬ HsvInvalid 0 0x3FF0000000000000 0
      ∧ ¬ HsvInvalid 0 0 0xFFF0000000000000 ∧ ¬ HsvInvalid 0 0xFFF0000000000000 0 := by
  refine ⟨ready_undisturbed _ _ _, ?_, ?_, ?_, ?_⟩ <;>
  · unfold HsvInvalid
    decide +kernel

theorem witness_SpecialValuesOfTheFloatOperations : 0 < 1 ∧ 0 < 0 + 1 ∧ 1 < 2 := by decide

/-- Both settings. -/
theorem witness_ChannelRoundingIsAConfigurationValue :
    Undisturbed (ready [] [] []) ∧ (ready [] [] []).channelRounding = .trunc
      ∧ Undisturbed { ready [] [] [] with channelRounding := .nearest } :=
  ⟨ready_undisturbed _ _ _, rfl, ⟨⟨rfl, rfl, rfl⟩, rfl⟩⟩

theorem witness_WorkedConversions : Undisturbed (ready [] [] []) := ready_undisturbed _ _ _

theorem witness_RgbValidation :
    Undisturbed (ready [] [] []) ∧ RgbInvalid 256 0 0 ∧ RgbInvalid 0 256 0 ∧ RgbInvalid 0 0 256 ∧ ¬ RgbInvalid 255 255 255 :=
  ⟨ready_undisturbed _ _ _, invalid_rgb.1, invalid_rgb.2.1, invalid_rgb.2.2, widest_rgb⟩

theorem witness_SetrgbTransmits :
    Undisturbed (ready [] allOk [1000000000]) ∧ ¬ RgbInvalid 255 255 255
      ∧ (ready [] allOk [1000000000]).periph.acks = .ok :: .ok :: .ok :: .ok :: []
      ∧ (ready [] allOk [1000000000]).periph.freqs = (1000000000 : U32) :: []
      ∧ 1 ≤ (1000000000 : U32).toNat ∧ (1000000000 : U32).toNat ≤ 1000000000 ∧ 1 ≤ (1 : U32).toNat :=
  ⟨ready_undisturbed _ _ _, widest_rgb, rfl, rfl, by decide, by decide, by decide⟩

/-- A `SETRGB` and a `SETHSV` that pass validation, whatever answers are there. -/
theorem setrgb_begins (acks : List Ack) (freqs : List U32) :
    Begins (.setrgb 18 52 86) (ready [] acks freqs) (acceptedRgb (ready [] acks freqs) 18 52 86)
      ∧ ¬ RgbInvalid (acceptedRgb (ready [] acks freqs) 18 52 86).operands.r
          (acceptedRgb (ready [] acks freqs) 18 52 86).operands.g
          (acceptedRgb (ready [] acks freqs) 18 52 86).operands.b := ⟨.inl ⟨18, 52, 86, rfl, rfl⟩, valid_rgb⟩

@[inherit_doc setrgb_begins]
theorem sethsv_begins (acks : List Ack) (freqs : List U32) :
    Begins (.sethsv 360 0x3FF0000000000000 0x3FF0000000000000) (ready [] acks freqs)
        (handedOver (ready [] acks freqs) 360 0x3FF0000000000000 0x3FF0000000000000)
      ∧ ¬ RgbInvalid (handedOver (ready [] acks freqs) 360 0x3FF0000000000000 0x3FF0000000000000).operands.r
          (handedOver (ready [] acks freqs) 360 0x3FF0000000000000 0x3FF0000000000000).operands.g
          (handedOver (ready [] acks freqs) 360 0x3FF0000000000000 0x3FF0000000000000).operands.b := by
  refine ⟨.inr ⟨360, 0x3FF0000000000000, 0x3FF0000000000000, rfl, valid_hsv, rfl⟩, ?_⟩
  simp only [RgbInvalid, handedOver, ready]
  decide +kernel

/-- What the statements on both commands assume of a command, for both of them. -/
def BothBegin (acks : List Ack) (freqs : List U32) : Prop :=
  Undisturbed (ready [] acks freqs) ∧ (ready [] acks freqs).periph.acks = acks ∧ (ready [] acks freqs).periph.freqs = freqs
    ∧ ∀ hsv : Bool, ∃ i begun, transmits i = true ∧ (hsv = true ↔ ∃ h s v, i = .sethsv h s v)
      ∧ Begins i (ready [] acks freqs) begun ∧ ¬ RgbInvalid begun.operands.r begun.operands.g begun.operands.b

theorem bothBegin (acks : List Ack) (freqs : List U32) : BothBegin acks freqs := by
  refine ⟨ready_undisturbed _ _ _, rfl, rfl, fun hsv => ?_⟩
  cases hsv
  · exact ⟨_, _, rfl, by simp, setrgb_begins acks freqs⟩
  · exact ⟨_, _, rfl, by simp, sethsv_begins acks freqs⟩

/-- Both ends of the unusable frequencies, for both commands. -/
theorem witness_UnusableFrequencyIsATickFault :
    BothBegin [.ok, .ok] [0] ∧ BothBegin [.ok, .ok] [1000000001] ∧ 1000000000 < (1000000001 : U32).toNat :=
  ⟨bothBegin _ _, bothBegin _ _, by decide⟩

/-- Both failing operations, for both commands. -/
theorem witness_FailedAcquisitionIsFatal : BothBegin [.err] [] ∧ BothBegin [.ok, .err] [] :=
  ⟨bothBegin _ _, bothBegin _ _⟩

/-- Both failing operations, for both commands, at both ends of the usable frequencies. -/
theorem witness_FailedSubmissionOrReleaseIsFatal :
    BothBegin [.ok, .ok, .err] [1] ∧ BothBegin [.ok, .ok, .ok, .err] [1000000000]
      ∧ 1 ≤ (1 : U32).toNat ∧ (1000000000 : U32).toNat ≤ 1000000000 :=
  ⟨bothBegin _ _, bothBegin _ _, by decide, by decide⟩

/-- One state for each of the five operations that can be left outstanding, for both commands. -/
theorem witness_UnansweredOperationIsLeftOutstanding :
    BothBegin [] [] ∧ BothBegin [.ok] [] ∧ BothBegin [.ok, .ok] [] ∧ BothBegin [.ok, .ok] [1]
      ∧ BothBegin [.ok, .ok, .ok] [1] ∧ 1 ≤ (1 : U32).toNat ∧ (1 : U32).toNat ≤ 1000000000 :=
  ⟨bothBegin _ _, bothBegin _ _, bothBegin _ _, bothBegin _ _, bothBegin _ _, by decide, by decide⟩

theorem witness_SetrgbFrame :
    (ready [] [] []).host.resetReq = false ∧ RgbInvalid 256 0 0
      ∧ (∃ t, CommandEnds (.setrgb 256 0 0) (ready [] [] []) t)
      ∧ (∃ t, CommandReaches (.setrgb 18 52 86) (ready [] allOk [20000000]) t)
      ∧ look State.status (after 6 (.setrgb 18 52 86) (ready [] allOk [20000000])) = some 0
      ∧ look State.status (after 2 (.setrgb 18 52 86) (ready [] [.err] [])) = some 2 := by
  refine ⟨rfl, invalid_rgb.1, ⟨_, commandEnds_of_run 1 rfl (inProgress_one ?_) rfl rfl⟩,
    ⟨_, _, 0, rfl, by intro m hm; omega, rfl⟩, by decide +kernel, by decide +kernel⟩
  intro h
  cases h

theorem witness_SequenceIsTheFrameWordShiftedOut : 0 < 24 ∧ 7 < 24 ∧ 8 < 24 ∧ 15 < 24 ∧ 16 < 24 ∧ 23 < 24 := by decide

/-- Whether an event is the answer of the clock query. -/
def isQuery : Event → Bool
  | .periph (.getClockFrequency _) _ => true
  | _ => false

/-- A `SETRGB` and a `SETHSV` that have been answered a usable frequency. -/
theorem witness_SubmittedCountsAreBounded :
    (ready [] allOk [20000000]).host.resetReq = false
      ∧ look (fun t => ((t.trace.drop 0).any isQuery, t.phase)) (after 3 (.setrgb 18 52 86) (ready [] allOk [20000000]))
          = some (true, .transmitting)
      ∧ look (fun t => ((t.trace.drop 0).any isQuery, t.phase)) (after 3 (.sethsv 0 0 0) (ready [] allOk [20000000]))
          = some (true, .transmitting) := by decide +kernel

theorem witness_LowFrequenciesGiveZeroCounts :
    1 ≤ (1 : U32).toNat ∧ (1000000000 : U32).toNat ≤ 1000000000
      ∧ (tickDuration 2493766).toNat = 400 ∧ (tickDuration 2493765).toNat = 401
      ∧ (tickDuration 1175088).toNat = 851 ∧ (tickDuration 1175089).toNat = 850 := by decide +kernel

theorem witness_DividingFrequencyNeverLengthensAPulse :
    (20000000 : U32).toNat ∣ 1000000000 ∧ (1 : U32).toNat ∣ 1000000000 ∧ (1000000000 : U32).toNat ∣ 1000000000 := by
  decide +kernel

/-- Two colours, two frequencies, a word after them. -/
theorem witness_PatternsAreRecomputedForEveryCommand :
    Undisturbed (ready [encode (.setrgb 18 52 86), encode (.setrgb 255 255 255), 0] (allOk ++ allOk) [20000000, 80000000])
      ∧ ¬ RgbInvalid 18 52 86 ∧ ¬ RgbInvalid 255 255 255
      ∧ (ready [] (allOk ++ allOk) [20000000, 80000000]).periph.acks
          = .ok :: .ok :: .ok :: .ok :: .ok :: .ok :: .ok :: .ok :: []
      ∧ (ready [] (allOk ++ allOk) [20000000, 80000000]).periph.freqs = (20000000 : U32) :: 80000000 :: []
      ∧ (20000000 : U32).toNat ≤ 1000000000 ∧ (80000000 : U32).toNat ≤ 1000000000 :=
  ⟨ready_undisturbed _ _ _, valid_rgb, widest_rgb, rfl, rfl, by decide, by decide⟩

/-- O1 is valid HSV with converted channels above 255. -/
theorem witness_SethsvRejectsConvertedChannels :
    Undisturbed (ready [] [] []) ∧ ¬ HsvInvalid 0 0xBFF0000000000000 0x3FF0000000000000
      ∧ RgbInvalid (handedOver (ready [] [] []) 0 0xBFF0000000000000 0x3FF0000000000000).operands.r
          (handedOver (ready [] [] []) 0 0xBFF0000000000000 0x3FF0000000000000).operands.g
          (handedOver (ready [] [] []) 0 0xBFF0000000000000 0x3FF0000000000000).operands.b := by
  refine ⟨ready_undisturbed _ _ _, ?_, ?_⟩
  · unfold HsvInvalid
    decide +kernel
  · unfold RgbInvalid
    decide +kernel

theorem witness_SethsvTransmits :
    Undisturbed (ready [] allOk [1]) ∧ hsvInContract 360 0x3FF0000000000000 0x3FF0000000000000 = true
      ∧ (ready [] allOk [1]).periph.acks = .ok :: .ok :: .ok :: .ok :: []
      ∧ (ready [] allOk [1]).periph.freqs = (1 : U32) :: []
      ∧ 1 ≤ (1 : U32).toNat ∧ (1 : U32).toNat ≤ 1000000000 :=
  ⟨ready_undisturbed _ _ _, by decide +kernel, rfl, rfl, by decide, by decide⟩

/-- An `HSV2RGB` that ends with an error and one that succeeds. -/
theorem witness_SethsvIsHsv2rgbThenSetrgb :
    (ready [] [] []).host.resetReq = false
      ∧ (∃ t, CommandEnds (.hsv2rgb 361 0 0) (ready [] [] []) t ∧ t.status ≠ 0)
      ∧ ∃ t, CommandEnds (.hsv2rgb 360 0 0) (ready [] [] []) t ∧ t.status = 0 := by
  refine ⟨rfl, ⟨_, commandEnds_of_run 1 rfl (inProgress_one ?_) rfl rfl, by decide⟩,
    ⟨_, commandEnds_of_run 1 rfl (inProgress_one ?_) rfl rfl, by decide⟩⟩ <;>
  · intro h
    cases h

theorem witness_SethsvFrame :
    (ready [] [] []).host.resetReq = false ∧ HsvInvalid 361 0 0 ∧ ¬ HsvInvalid 360 0x3FF0000000000000 0x3FF0000000000000
      ∧ (∃ t, CommandEnds (.sethsv 361 0 0) (ready [] [] []) t)
      ∧ ∃ t, CommandReaches (.sethsv 360 0x3FF0000000000000 0x3FF0000000000000) (ready [] allOk [20000000]) t := by
  refine ⟨rfl, invalid_hsv.1, valid_hsv, ⟨_, commandEnds_of_run 1 rfl (inProgress_one ?_) rfl rfl⟩,
    ⟨_, _, 0, rfl, by intro m hm; omega, rfl⟩⟩
  intro h
  cases h

/-- Each outcome of a `SETRGB`, and the steps that end a command. -/
theorem witness_LedFollowsTheOutcome :
    transmits (.setrgb 18 52 86) = true ∧ (ready [] [] []).host.resetReq = false
      ∧ look (fun t => t.trace.getLast?) (after 1 (.setrgb 256 0 0) (ready [] [] [])) = some (some (.complete .invalidArgument))
      ∧ look (fun t => t.trace.getLast?) (after 2 (.setrgb 18 52 86) (ready [] [.err] []))
          = some (some (.fatal (.peripheralError .configure)))
      ∧ look (fun t => t.trace.getLast?) (after 6 (.setrgb 18 52 86) (ready [] allOk [20000000])) = some (some (.complete .ok))
      ∧ look (fun t => (t.todo, t.phase)) (after 5 (.setrgb 18 52 86) (ready [] allOk [20000000]))
          = some (some (.complete .ok), .tornDown)
      ∧ look (fun t => t.todo) (after 1 (.setrgb 18 52 86) (ready [] [.err] []))
          = some (some (.fatal (.peripheralError .configure))) := by decide +kernel

theorem zeroFloat_representable : Representable zeroFloat := ⟨by decide +kernel, 0, 0, by decide, by decide⟩

/-- The ready state is sound. -/
theorem ready_inv (cmds : List CmdWord) (acks : List Ack) (freqs : List U32) : (ready cmds acks freqs).Inv where
  fault_iff_phase := by simp [ready]
  at_rest := fun _ => .inl rfl
  dead := by simp [ready]
  outstanding := by simp [ready]
  condition := by simp [ready]
  ending := by simp [ready]
  channels := by simp [ready, State.ownership]
  frame := by simp [ready]
  submitted := by simp [ready]
  led := fun _ => rfl
  norm := ⟨zeroFloat_representable, zeroFloat_representable, zeroFloat_representable, zeroFloat_representable,
    zeroFloat_representable, zeroFloat_representable, zeroFloat_representable, zeroFloat_representable,
    zeroFloat_representable, zeroFloat_representable⟩

theorem ready_safeRun (cmds : List CmdWord) (acks : List Ack) (freqs : List U32) : (ready cmds acks freqs).SafeRun :=
  ⟨.ready, rfl, rfl⟩

theorem witness_PhaseTellsTheOwnership : (ready [] [] []).Inv := ready_inv _ _ _

theorem witness_EveryStepKeepsTheInvariant :
    (ready [encode (.hsv2rgb 0 0 0)] [] []).Inv
      ∧ look State.phase (step (ready [encode (.hsv2rgb 0 0 0)] [] [])) = some .converting :=
  ⟨ready_inv _ _ _, by decide +kernel⟩

theorem witness_EveryStepKeepsTheOrderOfEvents :
    (ready [encode (.hsv2rgb 0 0 0)] [] []).Inv ∧ (ready [encode (.hsv2rgb 0 0 0)] [] []).SafeRun
      ∧ look State.phase (step (ready [encode (.hsv2rgb 0 0 0)] [] [])) = some .converting :=
  ⟨ready_inv _ _ _, ready_safeRun _ _ _, by decide +kernel⟩

/-- Two blocks that differ in a register and in the number of resets. -/
theorem witness_ResultsDoNotDependOnLeftOverValues :
    Undisturbed (ready [encode (.hsv2rgb 360 0 0)] [] [])
      ∧ Ready { ready [encode (.hsv2rgb 360 0 0)] [] [] with status := 3, resets := 7 }
      ∧ look (fun t => (names t, t.status)) (run 2 (ready [encode (.hsv2rgb 360 0 0)] [] []))
          = some (["accept", "complete"], 0) :=
  ⟨ready_undisturbed _ _ _, ⟨rfl, rfl, rfl⟩, by decide +kernel⟩

end Sys2Proof.Tests
end

section
/-! PROOFS. Binary64 data are closed under the block's arithmetic (40_normalizer.md R64), so a conversion leaves
binary64 data in every working register. -/

namespace Sys2Proof.Machine

/-- The exact remainder of two binary64 magnitudes is one: it is a multiple of the smaller of the two powers of two,
and below both operands. -/
theorem RepresentableMag.mod {a b : Nat} (ha : RepresentableMag a) (hb : RepresentableMag b) :
    RepresentableMag (a % b) := by
  refine ⟨(Nat.mod_le a b).trans_lt ha.1, ?_⟩
  obtain ⟨-, m, e, hm, rfl⟩ := ha
  obtain ⟨-, n, f, hn, rfl⟩ := hb
  rcases Nat.le_total e f with hef | hfe
  · obtain ⟨d, rfl⟩ := Nat.exists_eq_add_of_le hef
    refine ⟨m % (n * 2 ^ d), e, (Nat.mod_le _ _).trans_lt hm, ?_⟩
    rw [Nat.add_comm e d, pow_add, ← Nat.mul_assoc, Nat.mul_mod_mul_right]
  · obtain ⟨d, rfl⟩ := Nat.exists_eq_add_of_le hfe
    rw [Nat.add_comm f d, pow_add, ← Nat.mul_assoc, Nat.mul_mod_mul_right]
    rcases Nat.eq_zero_or_pos n with rfl | hpos
    · exact ⟨m, f + d, hm, by rw [Nat.mod_zero, Nat.add_comm, pow_add, Nat.mul_assoc]⟩
    · exact ⟨m * 2 ^ d % n, f, (Nat.mod_lt _ hpos).trans hn, rfl⟩

theorem representableMag_zero : RepresentableMag 0 := by
  refine ⟨?_, 0, 0, by norm_num, by norm_num⟩
  unfold f64Limit
  positivity

theorem f64OfNat_representable (n : Nat) (hn : n < 2 ^ 53) : Representable (f64OfNat n) := by
  have hlim : 2 ^ 53 * f64Unit ≤ f64Limit := by
    unfold f64Unit f64Limit
    rw [← pow_add]
    gcongr <;> norm_num
  exact ⟨(Nat.mul_lt_mul_of_pos_right hn f64Unit_pos).trans_le hlim, n, 1074, hn, by unfold f64Unit; rfl⟩

theorem f64Abs_representable {a : F64} (ha : Representable a) : Representable (f64Abs a) := by
  cases a <;> exact ha

/-- A sum is `+0.0` or `-0.0`, or rounded, where it is not a NaN or an infinity; the other operations are alike. -/
theorem f64Add_representable (a b : F64) : Representable (f64Add a b) := by
  fun_cases f64Add a b
  case case7 => exact representableMag_zero
  case case8 => exact f64Round_representable _ _ _ one_pos
  all_goals trivial

theorem f64Sub_representable (a b : F64) : Representable (f64Sub a b) := f64Add_representable _ _

theorem f64Mul_representable (a b : F64) : Representable (f64Mul a b) := by
  fun_cases f64Mul a b
  case case8 => exact f64Round_representable _ _ _ f64Unit_pos
  all_goals trivial

theorem f64Div_representable (a b : F64) : Representable (f64Div a b) := by
  fun_cases f64Div a b
  case case5 => exact representableMag_zero
  case case8 hb => exact f64Round_representable _ _ _ (Nat.pos_of_ne_zero hb)
  all_goals trivial

theorem f64Fmod_representable {a b : F64} (ha : Representable a) (hb : Representable b) :
    Representable (f64Fmod a b) := by
  fun_cases f64Fmod a b
  case case4 => exact ha
  case case6 => exact RepresentableMag.mod ha hb
  all_goals trivial

/-- A row of the sector table holds `C`, `X` and `+0.0` only (40_normalizer.md R69). -/
theorem sectorRow_representable (h : U32) {c x : F64} (hc : Representable c) (hx : Representable x) :
    Representable (sectorRow h c x).1 ∧ Representable (sectorRow h c x).2.1
      ∧ Representable (sectorRow h c x).2.2 := by
  have hzero : Representable (f64OfNat 0) := f64OfNat_representable 0 (by norm_num)
  fun_cases sectorRow h c x
  case case1 => exact ⟨hc, hx, hzero⟩
  case case2 => exact ⟨hx, hc, hzero⟩
  case case3 => exact ⟨hzero, hc, hx⟩
  case case4 => exact ⟨hzero, hx, hc⟩
  case case5 => exact ⟨hx, hzero, hc⟩
  case case6 => exact ⟨hc, hzero, hx⟩

theorem normalize_allRepresentable (h : U32) (s v : F64) : (normalize h s v).AllRepresentable := by
  have hc := f64Mul_representable s v
  have hhq := f64Div_representable (u32ToF64 h) (f64OfNat 60)
  have hhm := f64Fmod_representable hhq (f64OfNat_representable 2 (by norm_num))
  have hk := f64Sub_representable (f64OfNat 1) (normalize h s v).t
  have hx := f64Mul_representable (normalize h s v).c (normalize h s v).k
  obtain ⟨hrp, hgp, hbp⟩ := sectorRow_representable h hc hx
  exact ⟨hc, hhq, hhm, f64Abs_representable (f64Sub_representable _ _), hk, hx, f64Sub_representable _ _,
    hrp, hgp, hbp⟩

theorem NormRegs.unspecified_allRepresentable (n : Nat) : (NormRegs.unspecified n).AllRepresentable := by
  refine ⟨?_, ?_, ?_, ?_, ?_, ?_, ?_, ?_, ?_, ?_⟩ <;> exact f64OfBits_representable _

end Sys2Proof.Machine
end

section
/-! PROOFS. Every step keeps the invariant: the clauses that do not speak of the next step hold throughout a step,
and each operation issued or ending set is one the invariant allows. -/

open Sys2Proof.Claims

namespace Sys2Proof.Machine

/-! ### The frame -/

/-- The frame word holds the bits of the frame, the first one at the top (41_encoder.md R85, 30_encoding.md R56). -/
theorem frameWord_getLsbD (r g b : U32) (k : Nat) (hk : k < 24) :
    (frameWord r g b).getLsbD (23 - k) = frameBit r g b k := by
  simp only [frameWord, frameBit, frameByte, BitVec.getLsbD_append, BitVec.getLsbD_extractLsb']
  rcases (by omega : k / 8 = 0 ∨ k / 8 = 1 ∨ k / 8 = 2) with hbyte | hbyte | hbyte
  · rw [if_neg (by omega), if_neg (by omega), if_pos hbyte, decide_eq_true (by omega), Bool.true_and]
    congr 1
    omega
  · rw [if_neg (by omega), if_pos (by omega), if_neg (by omega), if_pos hbyte, decide_eq_true (by omega), Bool.true_and]
    congr 1
    omega
  · rw [if_pos (by omega), if_neg (by omega), if_neg (by omega), decide_eq_true (by omega), Bool.true_and]
    congr 1
    omega

/-- A usable frequency gives the complete, correct sequence (41_encoder.md R83 to R85). -/
theorem frameBuilt_buildFrame (s : State) (hf : s.enc.freq ≠ 0) (htick : s.enc.tickNs = tickDuration s.enc.freq)
    (ht : s.enc.tickNs ≠ 0) : FrameBuilt s.operands (buildFrame s).enc := by
  have hhigh : ¬ 1000000000 < s.enc.freq.toNat := by rwa [← tickDuration_eq_zero_iff _ hf, ← htick]
  have hlow : s.enc.freq.toNat ≠ 0 := by simpa [← BitVec.toNat_inj] using hf
  constructor <;> simp only [buildFrame_enc, serialise_freq, serialise_tickNs, serialise_pat0, serialise_pat1,
    serialise_w, serialise_i]
  case frequency => omega
  case tick => rw [htick, tickDuration_toNat]
  case zero => rfl
  case one => rfl
  case word => simp [frameWord, BitVec.setWidth_eq_extractLsb']
  case sequence =>
    intro k
    rw [frameWord_getLsbD _ _ _ k k.isLt]
    exact serialise_seq _ _ _ _ k k.isLt

/-! ### One step of a command -/

/-- The clauses of the invariant that do not speak of the next step, while the block is not halted. -/
structure State.Sound (s : State) : Prop where
  fault : s.fault = false
  phase : s.phase ≠ .fault
  channels : s.ownership = .owned →
    s.operands.r.toNat ≤ 255 ∧ s.operands.g.toNat ≤ 255 ∧ s.operands.b.toNat ≤ 255
  frame : s.phase = .transmitting ∨ s.phase = .tornDown → FrameBuilt s.operands s.enc
  submitted : s.phase = .tornDown → s.periph.frame = some s.enc.seq
  led : s.ownership = .owned → s.led = .unknown
  norm : s.norm.AllRepresentable

theorem State.Inv.sound {s : State} (h : s.Inv) (hf : s.fault = false) : s.Sound where
  fault := hf
  phase := fun hp => by simp [h.fault_iff_phase.mpr hp] at hf
  channels := h.channels
  frame := h.frame
  submitted := h.submitted
  led := fun ho => h.led (.inl ho)
  norm := h.norm

/-- Before the peripheral is acquired only the working registers are bound by the invariant. -/
theorem State.Sound.of_notOwned {s : State} (hf : s.fault = false) (hp : s.phase = .idle ∨ s.phase = .converting)
    (hn : s.norm.AllRepresentable) : s.Sound := by
  rcases hp with hp | hp <;> constructor <;> simp [State.ownership, hp, hf, hn]

section
variable {s : State} (h : s.Sound)
include h

/-- The one way to go on in a command: the next step is an ending, or an operation in its place. -/
theorem State.Sound.goOn {next : CommandStep} (hend : EndsAsAllowed (goOn next s) next)
    (hask : ∀ op, next = .ask op → s.phase = op.phase ∧ IssuedOp s.enc.seq op
      ∧ ConditionBefore op s.periph.condition) : (goOn next s).Inv where
  fault_iff_phase := by simp [h.fault, h.phase]
  at_rest := by simp
  dead := by simp [h.fault]
  outstanding := fun op hop => by
    obtain ⟨hphase, hissued, -⟩ := hask op (by simpa using hop)
    exact ⟨hphase, hissued⟩
  condition := fun op hop => by
    obtain ⟨-, -, hcond⟩ := hask op (by simpa using hop)
    exact hcond
  ending := fun n hn => by
    obtain rfl : next = n := by simpa using hn
    exact hend
  channels := h.channels
  frame := h.frame
  submitted := h.submitted
  led := by
    rintro (ho | hf)
    · exact h.led ho
    · simp [h.fault] at hf
  norm := h.norm

theorem State.Sound.issue {op : PeriphOp} (hp : s.phase = op.phase) (hop : IssuedOp s.enc.seq op)
    (hc : ConditionBefore op s.periph.condition) : (issue op s).Inv :=
  h.goOn trivial fun _ he => by
    obtain rfl := CommandStep.ask.inj he
    exact ⟨hp, hop, hc⟩

theorem State.Sound.complete_ok (hp : s.phase = .converting ∨ s.phase = .tornDown) :
    (Machine.goOn (.complete .ok) s).Inv := h.goOn hp (by simp)

theorem State.Sound.raise_invalidArgument (hp : s.phase = .idle ∨ s.phase = .converting) :
    (raise .invalidArgument s).Inv := h.goOn hp (by simp)

theorem State.Sound.raise_peripheralError {f : FailingStep} (hp : s.phase = f.phase) :
    (raise (.peripheralError f) s).Inv := h.goOn hp (by simp)

theorem State.Sound.raise_tickFault (hp : s.phase = .encoding)
    (hf : s.enc.freq = 0 ∨ 1000000000 < s.enc.freq.toNat) : (raise .tickFault s).Inv := h.goOn ⟨hp, hf⟩ (by simp)

/-! ### What follows each answer -/

theorem State.Sound.onConfigure (a : Ack) (hp : s.phase = .configuring) : (onConfigure a s).Inv := by
  cases a with
  | ok =>
    refine State.Sound.issue ?_ ?_ (.inr (.inl rfl)) rfl
    · exact { h with }
    · exact hp
  | err => exact h.raise_peripheralError hp

theorem State.Sound.onInstall (a : Ack) (hp : s.phase = .configuring) : (onInstall a s).Inv := by
  have howned : s.ownership = .owned := by simp [State.ownership, hp]
  cases a with
  | ok =>
    refine State.Sound.issue ?_ rfl (.inr (.inr (.inl rfl))) rfl
    exact { h with
      phase := by simp
      channels := fun _ => h.channels howned
      frame := by simp
      submitted := by simp
      led := fun _ => h.led howned }
  | err => exact h.raise_peripheralError hp

theorem State.Sound.onFrequency (f : U32) (hp : s.phase = .encoding) (hc : s.periph.condition = .installed) :
    (onFrequency f s).Inv := by
  have howned : s.ownership = .owned := by simp [State.ownership, hp]
  have henc : ∀ e, State.Sound { s with enc := e } := fun e =>
    { h with frame := by simp [hp], submitted := by simp [hp] }
  rcases onFrequency_cases f s with ⟨hf, heq⟩ | ⟨hf, ht, heq⟩ | ⟨hf, ht, heq⟩ <;> rw [heq]
  · exact (henc _).raise_tickFault hp (.inl hf)
  · exact (henc _).raise_tickFault hp (.inr ((tickDuration_eq_zero_iff f hf).mp ht))
  · refine State.Sound.issue ?_ rfl (.inr (.inr (.inr (.inl rfl)))) hc
    exact { h with
      phase := by simp
      channels := fun _ => h.channels howned
      frame := fun _ => frameBuilt_buildFrame { s with enc := _ } hf rfl ht
      submitted := by simp
      led := fun _ => h.led howned }

theorem State.Sound.onWrite (a : Ack) (hp : s.phase = .transmitting) (hc : s.periph.condition = .installed) :
    (onWrite a s).Inv := by
  have howned : s.ownership = .owned := by simp [State.ownership, hp]
  cases a with
  | ok =>
    refine State.Sound.issue ?_ rfl (.inr (.inr (.inr (.inr rfl)))) hc
    exact { h with
      phase := by simp
      channels := fun _ => h.channels howned
      frame := fun _ => h.frame (.inl hp)
      submitted := fun _ => rfl
      led := fun _ => h.led howned }
  | err => exact h.raise_peripheralError hp

theorem State.Sound.onUninstall (a : Ack) (hp : s.phase = .tornDown) : (onUninstall a s).Inv := by
  cases a with
  | ok => exact State.Sound.complete_ok { h with } (.inr hp)
  | err => exact h.raise_peripheralError hp

end

/-- An answer is recorded and taken off its queue before the command goes on: nothing the invariant speaks of. -/
theorem State.Sound.answered {s : State} (h : s.Sound) (e : Event) (acks : List Ack) (freqs : List U32) :
    (record e { s with periph := { s.periph with acks := acks, freqs := freqs } }).Sound := { h with }

theorem answer_inv {op : PeriphOp} {s t : State} (h : s.Sound) (hphase : s.phase = op.phase)
    (hcond : ConditionBefore op s.periph.condition) (ht : answer op s = .next t) : t.Inv := by
  rcases answer_next ht with ⟨f, rest, ⟨ch, rfl⟩, -, rfl⟩ | ⟨a, rest, next, -, rfl, hnext⟩
  · exact (h.answered _ _ _).onFrequency f hphase hcond
  · rcases hnext with ⟨⟨_, _, _, _, rfl⟩, rfl⟩ | ⟨⟨_, rfl⟩, rfl⟩ | ⟨⟨_, _, _, rfl⟩, rfl⟩ | ⟨⟨_, rfl⟩, rfl⟩
    · exact (h.answered _ _ _).onConfigure a hphase
    · exact (h.answered _ _ _).onInstall a hphase
    · exact (h.answered _ _ _).onWrite a hphase hcond
    · exact (h.answered _ _ _).onUninstall a hphase

/-! ### The other steps -/

theorem complete_inv {s : State} (h : s.Sound) (o : CmdOutcome) : (complete o s).Inv := by
  constructor <;> simp [State.ownership, h.fault, h.norm]

theorem enterFault_inv {s : State} (h : s.Sound) (e : CmdError) : (enterFault e s).Inv := by
  constructor <;> simp [State.ownership, h.norm]

theorem applyReset_inv (s : State) : (applyReset s).Inv := by
  constructor <;> simp [State.ownership, NormRegs.unspecified_allRepresentable]

theorem encodeAndSend_inv {s : State} (hf : s.fault = false) (hp : s.phase = .idle ∨ s.phase = .converting)
    (hn : s.norm.AllRepresentable) : (encodeAndSend s).Inv := by
  rcases encodeAndSend_cases s with ⟨-, heq⟩ | ⟨hvalid, heq⟩ <;> rw [heq]
  · exact (State.Sound.of_notOwned hf hp hn).raise_invalidArgument hp
  · refine State.Sound.issue ?_ rfl (.inl rfl) trivial
    exact {
      fault := hf
      phase := by simp
      channels := fun _ => (rgbRejected_eq_false_iff _ _ _).mp hvalid
      frame := by simp
      submitted := by simp
      led := fun _ => rfl
      norm := hn }

/-- An HSV command ends in the error, or goes on with binary64 data in the working registers. -/
theorem convertThen_inv {s : State} {next : State → State} (hf : s.fault = false) (hn : s.norm.AllRepresentable)
    (hnext : ∀ u : State, u.fault = false → u.phase = .converting → u.norm.AllRepresentable → (next u).Inv) :
    (convertThen next s).Inv := by
  rcases convertThen_cases next s with ⟨-, heq⟩ | ⟨-, heq⟩ <;> rw [heq]
  · have hs : State.Sound { s with phase := .converting } := .of_notOwned hf (.inr rfl) hn
    exact hs.raise_invalidArgument (.inr rfl)
  · exact hnext _ hf rfl (normalize_allRepresentable _ _ _)

theorem exec_inv {i : Instr} {s t : State} (ht : exec i s = .next t) (hn : s.norm.AllRepresentable) : t.Inv := by
  obtain ⟨hf, hp, -, hcmd⟩ := exec_next ht
  rcases hcmd with ⟨r, g, b, rfl, rfl⟩ | ⟨hue, sat, val, rfl, rfl⟩ | ⟨hue, sat, val, rfl, rfl⟩
  · exact encodeAndSend_inv hf (.inl hp) hn
  · exact convertThen_inv hf hn fun _ hfu hpu hnu => encodeAndSend_inv hfu (.inr hpu) hnu
  · exact convertThen_inv hf hn fun _ hfu hpu hnu => (State.Sound.of_notOwned hfu (.inr hpu) hnu).complete_ok (.inl hpu)

/-- Settles O52: a step is a reset, an answer, an ending, a wait or a command taken, and each leaves a state the
invariant allows. -/
theorem everyStepKeepsTheInvariant : Obligations.EveryStepKeepsTheInvariant := by
  intro s t hinv ht
  rcases step_next ht with ⟨-, rfl⟩ | ⟨-, hf, ⟨next, htodo, hadv⟩ | ⟨-, -, rfl⟩ | ⟨w, rest, -, -, hexec⟩⟩
  · exact applyReset_inv s
  · have hs := hinv.sound hf
    rcases advance_next hadv with ⟨op, rfl, hans⟩ | ⟨o, rfl, rfl⟩ | ⟨e, rfl, rfl⟩
    · exact answer_inv hs (hinv.outstanding op htodo).1 (hinv.condition op htodo) hans
    · exact complete_inv hs o
    · exact enterFault_inv hs e
  · exact hinv
  · exact exec_inv hexec hinv.norm

/-! ### Reset, ownership and `FAULT` -/

/-- Settles O51: after a reset only the working registers are bound, and any pattern is a binary64 datum. -/
theorem resetStateIsSound : Obligations.ResetStateIsSound := by
  constructor <;> simp [State.reset, State.ownership, NormRegs.unspecified_allRepresentable]

/-- Settles O49: each operation's phase is one in which the block owns the peripheral (10_state.md R26). -/
theorem phaseTellsTheOwnership : Obligations.PhaseTellsTheOwnership := by
  intro s h
  refine ⟨fun op hop => ?_, fun hf => ?_, fun ht hf => ?_⟩
  · obtain ⟨hphase, -⟩ := h.outstanding op hop
    cases op <;> simp [State.ownership, hphase, PeriphOp.phase]
  · simp [State.ownership, h.fault_iff_phase.mp hf]
  · rcases h.at_rest ht with hp | hp
    · simp [State.ownership, hp]
    · simp [h.fault_iff_phase.mpr hp] at hf

theorem exec_setrgb (r g b : U32) (s : State) :
    exec (.setrgb r g b) s = whenReady s fun s => encodeAndSend (accept (.setrgb r g b) s) := rfl

theorem exec_sethsv (hue : U32) (sat val : U64) (s : State) :
    exec (.sethsv hue sat val) s = whenReady s fun s =>
      convertThen (fun s => encodeAndSend (handOver s)) (accept (.sethsv hue sat val) s) := rfl

theorem exec_hsv2rgb (hue : U32) (sat val : U64) (s : State) :
    exec (.hsv2rgb hue sat val) s = whenReady s fun s =>
      convertThen (goOn (.complete .ok)) (accept (.hsv2rgb hue sat val) s) := rfl

theorem exec_of_fault {s : State} (i : Instr) (hf : s.fault = true) : exec i s = .fault .halted := by
  cases i with
  | setrgb r g b => rw [exec_setrgb, whenReady_of_fault _ hf]
  | sethsv hue sat val => rw [exec_sethsv, whenReady_of_fault _ hf]
  | hsv2rgb hue sat val => rw [exec_hsv2rgb, whenReady_of_fault _ hf]
  | reservedOp11 => simp only [exec, execReservedOp11, if_pos hf]

/-- Settles O10: `FAULT` is tested before anything but the reset request (10_state.md R18, 60_exceptions.md R118). -/
theorem faultHoldsUntilReset : Obligations.FaultHoldsUntilReset := by
  intro s hf
  refine ⟨fun hr => step_of_fault hr hf, fun i => exec_of_fault i hf, fun t ht => ?_⟩
  rcases step_next ht with ⟨hr, rfl⟩ | ⟨-, hf', -⟩
  · exact ⟨hr, rfl, rfl⟩
  · simp [hf] at hf'

end Sys2Proof.Machine
end

section
/-! PROOFS. What every step of a command leaves unchanged, and the frame of `SETRGB`. -/

open Sys2Proof.Claims

namespace Sys2Proof.Machine

/-- What no step of the encoder changes (41_encoder.md R89), from the state `s` to the state `t`; answers are only taken
off the front of their queues. -/
structure EncoderFrame (s t : State) : Prop where
  operands : t.operands = s.operands
  results : t.results = s.results
  norm : t.norm = s.norm
  host : t.host = s.host
  ledAssumptions : t.ledAssumptions = s.ledAssumptions
  channelRounding : t.channelRounding = s.channelRounding
  draws : t.draws = s.draws
  resets : t.resets = s.resets
  acks : t.periph.acks <:+ s.periph.acks
  freqs : t.periph.freqs <:+ s.periph.freqs

/-- What a step that does not end the command leaves unchanged besides. -/
structure CommandGoesOn (s t : State) : Prop extends EncoderFrame s t where
  fault : t.fault = s.fault
  status : t.status = s.status
  trace : t.trace = s.trace

theorem EncoderFrame.trans {s t u : State} (h : EncoderFrame s t) (h' : EncoderFrame t u) : EncoderFrame s u where
  operands := h'.operands.trans h.operands
  results := h'.results.trans h.results
  norm := h'.norm.trans h.norm
  host := h'.host.trans h.host
  ledAssumptions := h'.ledAssumptions.trans h.ledAssumptions
  channelRounding := h'.channelRounding.trans h.channelRounding
  draws := h'.draws.trans h.draws
  resets := h'.resets.trans h.resets
  acks := h'.acks.trans h.acks
  freqs := h'.freqs.trans h.freqs

/-- Only the phase, the next step, the encoder's registers, the LED and what is recorded of the peripheral differ. -/
theorem CommandGoesOn.of_writes (s : State) (phase : Phase) (todo : Option CommandStep) (enc : EncRegs) (led : Led)
    (condition : PeriphCondition) (frame : Option PulseSequence) :
    CommandGoesOn s { s with
      phase := phase, todo := todo, enc := enc, led := led
      periph := { s.periph with condition := condition, frame := frame } } := by
  constructor
  case toEncoderFrame => constructor <;> simp
  all_goals rfl

theorem onConfigure_goesOn (a : Ack) (s : State) : CommandGoesOn s (onConfigure a s) := by
  cases a <;> exact .of_writes ..

theorem onInstall_goesOn (a : Ack) (s : State) : CommandGoesOn s (onInstall a s) := by
  cases a <;> exact .of_writes ..

theorem onFrequency_goesOn (f : U32) (s : State) : CommandGoesOn s (onFrequency f s) := by
  rcases onFrequency_cases f s with ⟨-, heq⟩ | ⟨-, -, heq⟩ | ⟨-, -, heq⟩ <;> rw [heq] <;> exact .of_writes ..

theorem onWrite_goesOn (a : Ack) (s : State) : CommandGoesOn s (onWrite a s) := by
  cases a <;> exact .of_writes ..

theorem onUninstall_goesOn (a : Ack) (s : State) : CommandGoesOn s (onUninstall a s) := by
  cases a <;> exact .of_writes ..

theorem encodeAndSend_goesOn (s : State) : CommandGoesOn s (encodeAndSend s) := by
  rcases encodeAndSend_cases s with ⟨-, heq⟩ | ⟨-, heq⟩ <;> rw [heq] <;> exact .of_writes ..

theorem answered_frame (s : State) (e : Event) {acks : List Ack} {freqs : List U32}
    (ha : acks <:+ s.periph.acks) (hf : freqs <:+ s.periph.freqs) :
    EncoderFrame s (record e { s with periph := { s.periph with acks := acks, freqs := freqs } }) := by
  constructor
  case acks => exact ha
  case freqs => exact hf
  all_goals rfl

theorem answer_frame {op : PeriphOp} {s t : State} (h : answer op s = .next t) :
    EncoderFrame s t ∧ t.status = s.status := by
  rcases answer_next h with ⟨f, rest, -, hf, rfl⟩ | ⟨a, rest, next, ha, rfl, hnext⟩
  · have hgo := onFrequency_goesOn f (record (.periph op (.hz f)) { s with periph := { s.periph with freqs := rest } })
    refine ⟨(answered_frame s _ List.suffix_rfl ?_).trans hgo.toEncoderFrame, hgo.status⟩
    exact hf ▸ List.suffix_cons f rest
  · have hgo (u : State) : CommandGoesOn u (next a u) := by
      rcases hnext with ⟨-, rfl⟩ | ⟨-, rfl⟩ | ⟨-, rfl⟩ | ⟨-, rfl⟩
      · exact onConfigure_goesOn a u
      · exact onInstall_goesOn a u
      · exact onWrite_goesOn a u
      · exact onUninstall_goesOn a u
    refine ⟨(answered_frame s _ ?_ List.suffix_rfl).trans (hgo _).toEncoderFrame, (hgo _).status⟩
    exact ha ▸ List.suffix_cons a rest

theorem complete_frame (o : CmdOutcome) (s : State) : EncoderFrame s (complete o s) := by
  constructor <;> simp

theorem enterFault_frame (e : CmdError) (s : State) : EncoderFrame s (enterFault e s) := by
  constructor <;> simp

/-- Every further step of a command has the encoder's frame, and `STATUS` is written by the last one only. -/
theorem advance_frame {next : CommandStep} {s t : State} (h : advance next s = .next t) :
    EncoderFrame s t ∧ (t.todo ≠ none → t.status = s.status) := by
  rcases advance_next h with ⟨op, -, hans⟩ | ⟨o, -, rfl⟩ | ⟨e, -, rfl⟩
  · exact ⟨(answer_frame hans).1, fun _ => (answer_frame hans).2⟩
  · exact ⟨complete_frame o s, fun h => absurd rfl h⟩
  · exact ⟨enterFault_frame e s, fun h => absurd rfl h⟩

/-- A step of a block in which a command is in progress and no reset is requested is the command's next step. -/
theorem step_of_inProgress {s t : State} (hr : s.host.resetReq = false) (htodo : s.todo ≠ none)
    (h : step s = .next t) : ∃ next, s.todo = some next ∧ advance next s = .next t := by
  rcases step_next h with ⟨hr', -⟩ | ⟨-, -, hnext | ⟨hnone, -⟩ | ⟨_, _, hnone, -⟩⟩
  · simp [hr] at hr'
  · exact hnext
  · exact absurd hnone htodo
  · exact absurd hnone htodo

/-! ### `SETRGB` -/

/-- What a rejected `SETRGB` leaves alone of the state `s` it was taken in: all but its operands, the record and the
pending `complete(InvalidArgument)` (41_encoder.md R81). -/
structure TurnedAway (s t : State) : Prop where
  enc : t.enc = s.enc
  periph : t.periph = s.periph
  led : t.led = s.led
  phase : t.phase = .idle
  fault : t.fault = false
  todo : t.todo = none ∨ t.todo = some (.complete .invalidArgument)

theorem TurnedAway.advance {s t u : State} {next : CommandStep} (h : TurnedAway s t) (htodo : t.todo = some next)
    (hadv : advance next t = .next u) : TurnedAway s u := by
  obtain rfl : next = .complete .invalidArgument := by simpa [htodo] using h.todo
  cases hadv
  constructor <;> simp [ledAfterCommand, h.enc, h.periph, h.led, h.fault]

/-- What holds in every state `t` of a `SETRGB` taken in `s`. -/
structure SetrgbCourse (r g b : U32) (s t : State) : Prop where
  frame : EncoderFrame (accept (.setrgb r g b) s) t
  status : t.todo ≠ none → t.status = s.status
  rejected : RgbInvalid r g b → TurnedAway s t

theorem setrgbCourse_begins {r g b : U32} {s t : State} (h : exec (.setrgb r g b) s = .next t) :
    SetrgbCourse r g b s t := by
  rw [exec_setrgb] at h
  obtain ⟨hf, hp, -, rfl⟩ := whenReady_next h
  have hgo := encodeAndSend_goesOn (accept (.setrgb r g b) s)
  refine ⟨hgo.toEncoderFrame, fun _ => hgo.status, fun hinv => ?_⟩
  have hrej : rgbRejected r g b = true := (rgbRejected_eq_true_iff r g b).mpr hinv
  constructor <;> simp [encodeAndSend, latchOperands, hrej, hp, hf]

theorem SetrgbCourse.step {r g b : U32} {s t u : State} (hr : s.host.resetReq = false) (h : SetrgbCourse r g b s t)
    (htodo : t.todo ≠ none) (hstep : step t = .next u) : SetrgbCourse r g b s u := by
  have hquiet : t.host.resetReq = false := by rw [h.frame.host]; exact hr
  obtain ⟨next, hnext, hadv⟩ := step_of_inProgress hquiet htodo hstep
  obtain ⟨hframe, hstatus⟩ := advance_frame hadv
  exact {
    frame := h.frame.trans hframe
    status := fun hu => (hstatus hu).trans (h.status htodo)
    rejected := fun hinv => (h.rejected hinv).advance hnext hadv }

/-- Settles O39, by induction over the states of the command. -/
theorem setrgbFrame : Obligations.SetrgbFrame := by
  intro s t r g b hr hreach
  obtain ⟨hframe, hstatus, hrej⟩ : SetrgbCourse r g b s t :=
    commandReaches_induction hreach (fun _ => setrgbCourse_begins) (fun _ _ h => h.step hr)
  obtain ⟨acks, hacks⟩ := hframe.acks
  obtain ⟨freqs, hfreqs⟩ := hframe.freqs
  refine ⟨hframe.results, hframe.norm, hframe.draws, hframe.host, hframe.resets, hframe.ledAssumptions,
    hframe.channelRounding, hframe.operands, hstatus, fun hinv => ?_, acks, freqs, hacks.symm, hfreqs.symm⟩
  obtain ⟨henc, hperiph, hled, hphase, hfault, -⟩ := hrej hinv
  exact ⟨henc, hperiph, hled, hphase, hfault⟩

end Sys2Proof.Machine
end

section
/-! PROOFS. Two blocks that differ only in left-over registers and in their past run alike (10_state.md R11): what a
command reads of a register, it has written itself before. -/

open Sys2Proof.Claims

namespace Sys2Proof.Machine

/-- The two blocks agree on everything but their registers and their past. -/
structure Alike (s s' : State) : Prop where
  phase : s'.phase = s.phase
  todo : s'.todo = s.todo
  fault : s'.fault = s.fault
  host : s'.host = s.host
  periph : s'.periph = s.periph
  led : s'.led = s.led
  ledAssumptions : s'.ledAssumptions = s.ledAssumptions
  channelRounding : s'.channelRounding = s.channelRounding
  draws : s'.draws = s.draws

def SameColour (s s' : State) : Prop :=
  s'.operands.r = s.operands.r ∧ s'.operands.g = s.operands.g ∧ s'.operands.b = s.operands.b

def SameFrame (s s' : State) : Prop := SameColour s s' ∧ s'.enc = s.enc

def SameConversion (s s' : State) : Prop := s'.results = s.results ∧ s'.norm = s.norm

/-- The two blocks agree on the registers that the command may still read from this step on: the colour until the frame
is built, the colour and the frame afterwards. -/
def SameReads (s s' : State) : CommandStep → Prop
  | .ask (.configure _ _ _ _)   => SameColour s s'
  | .ask (.install _)           => SameColour s s'
  | .ask (.getClockFrequency _) => SameColour s s'
  | .ask (.write _ _ _)         => SameFrame s s'
  | .ask (.uninstall _)         => SameFrame s s'
  | .complete _                 => s.phase = .tornDown → SameFrame s s'
  | .fatal _                    => True

/-- Alike between two steps. -/
structure InStep (s s' : State) : Prop extends Alike s s' where
  reads : ∀ next, s.todo = some next → SameReads s s' next

theorem EncRegs.eq_of_fields {e e' : EncRegs} (hfreq : e'.freq = e.freq) (htick : e'.tickNs = e.tickNs)
    (h0 : e'.pat0 = e.pat0) (h1 : e'.pat1 = e.pat1) (hseq : e'.seq = e.seq) (hw : e'.w = e.w) (hi : e'.i = e.i) :
    e' = e := by
  cases e
  cases e'
  simp_all only

/-- The loop overwrites the sequence, the frame word and the position, whatever they held (41_encoder.md R85). -/
theorem serialise_congr (r g b : U32) {e e' : EncRegs} (hf : e'.freq = e.freq) (ht : e'.tickNs = e.tickNs)
    (h0 : e'.pat0 = e.pat0) (h1 : e'.pat1 = e.pat1) : serialise r g b e' = serialise r g b e := by
  refine EncRegs.eq_of_fields (by simp [hf]) (by simp [ht]) (by simp [h0]) (by simp [h1]) ?_ (by simp) (by simp)
  refine Vector.ext fun k hk => ?_
  simp only [serialise_seq, EncRegs.pat, h0, h1]

theorem SameConversion.of_frame {s s' t t' : State} (hsame : SameConversion s s') (hs : EncoderFrame s t)
    (hs' : EncoderFrame s' t') : SameConversion t t' :=
  ⟨by rw [hs'.results, hs.results, hsame.1], by rw [hs'.norm, hs.norm, hsame.2]⟩

section
variable {s s' : State} (h : Alike s s')
include h

theorem Alike.goOn (next : CommandStep) (hreads : SameReads (goOn next s) (goOn next s') next) :
    InStep (goOn next s) (goOn next s') where
  toAlike := { h with todo := rfl }
  reads := fun n hn => by
    obtain rfl : next = n := by simpa using hn
    exact hreads

theorem Alike.withCondition (c : PeriphCondition) :
    Alike { s with periph := { s.periph with condition := c } }
      { s' with periph := { s'.periph with condition := c } } := { h with periph := by simp [h.periph] }

theorem Alike.withPhase (p : Phase) : Alike { s with phase := p } { s' with phase := p } := { h with phase := rfl }

theorem Alike.withEnc (e e' : EncRegs) : Alike { s with enc := e } { s' with enc := e' } := { h with }

/-! ### What follows each answer -/

theorem Alike.onConfigure_inStep (hc : SameColour s s') (a : Ack) : InStep (onConfigure a s) (onConfigure a s') := by
  cases a with
  | ok => exact (h.withCondition .configured).goOn (.ask installOp) hc
  | err => exact h.goOn (.fatal (.peripheralError .configure)) trivial

theorem Alike.onInstall_inStep (hc : SameColour s s') (a : Ack) : InStep (onInstall a s) (onInstall a s') := by
  cases a with
  | ok => exact ((h.withCondition .installed).withPhase .encoding).goOn (.ask clockOp) hc
  | err => exact h.goOn (.fatal (.peripheralError .install)) trivial

theorem Alike.startWrite_inStep (hf : SameFrame s s') : InStep (startWrite s) (startWrite s') := by
  have heq : startWrite s' = Machine.goOn (.ask (writeOp s.enc.seq)) { s' with phase := .transmitting } :=
    congrArg (fun e : EncRegs => Machine.goOn (.ask (writeOp e.seq)) { s' with phase := .transmitting }) hf.2
  rw [heq]
  exact (h.withPhase .transmitting).goOn (.ask (writeOp s.enc.seq)) hf

theorem Alike.startWrite_buildFrame_inStep (hc : SameColour s s') (hf : s'.enc.freq = s.enc.freq)
    (ht : s'.enc.tickNs = s.enc.tickNs) : InStep (startWrite (buildFrame s)) (startWrite (buildFrame s')) := by
  obtain ⟨hr, hg, hb⟩ := hc
  refine Alike.startWrite_inStep { h with } ⟨⟨hr, hg, hb⟩, ?_⟩
  simp only [buildFrame_enc, hr, hg, hb, ht]
  exact serialise_congr _ _ _ hf rfl rfl rfl

theorem Alike.onFrequency_inStep (hc : SameColour s s') (f : U32) : InStep (onFrequency f s) (onFrequency f s') := by
  by_cases hf : f = 0
  · simp only [onFrequency, if_pos hf]
    exact (h.withEnc _ _).goOn (.fatal .tickFault) trivial
  · by_cases ht : tickDuration f = 0
    · simp only [onFrequency, if_neg hf, if_pos ht]
      exact (h.withEnc _ _).goOn (.fatal .tickFault) trivial
    · simp only [onFrequency, if_neg hf, if_neg ht]
      exact Alike.startWrite_buildFrame_inStep (h.withEnc _ _) hc rfl rfl

theorem Alike.onWrite_inStep (hf : SameFrame s s') (a : Ack) : InStep (onWrite a s) (onWrite a s') := by
  cases a with
  | ok =>
    refine Alike.goOn ?_ (.ask uninstallOp) hf
    exact { h with phase := rfl, periph := by simp [h.periph, hf.2] }
  | err => exact h.goOn (.fatal (.peripheralError .write)) trivial

theorem Alike.onUninstall_inStep (hf : SameFrame s s') (a : Ack) : InStep (onUninstall a s) (onUninstall a s') := by
  cases a with
  | ok => exact (h.withCondition .released).goOn (.complete .ok) fun _ => hf
  | err => exact h.goOn (.fatal (.peripheralError .uninstall)) trivial

/-! ### The end of a command -/

theorem Alike.ledAfterOk_eq (hf : SameFrame s s') : ledAfterOk s' = ledAfterOk s := by
  obtain ⟨⟨hr, hg, hb⟩, he⟩ := hf
  simp only [ledAfterOk, h.ledAssumptions, he, hr, hg, hb]

theorem Alike.complete_inStep (o : CmdOutcome) (hf : s.phase = .tornDown → SameFrame s s') :
    InStep (complete o s) (complete o s') where
  toAlike := { h with
    phase := rfl
    todo := rfl
    led := by
      simp only [complete_led, ledAfterCommand, h.phase, h.led]
      split
      case isTrue hok => exact h.ledAfterOk_eq (hf hok.2)
      case isFalse => rfl }
  reads := by simp

theorem Alike.enterFault_inStep (e : CmdError) : InStep (enterFault e s) (enterFault e s') where
  toAlike := { h with
    phase := rfl
    todo := rfl
    fault := rfl
    periph := by simp [h.periph]
    led := rfl }
  reads := by simp

/-! ### The begin of a command -/

theorem Alike.encodeAndSend_inStep (hp : s.phase ≠ .tornDown) (hc : SameColour s s') :
    InStep (encodeAndSend s) (encodeAndSend s') := by
  obtain ⟨hr, hg, hb⟩ := hc
  simp only [encodeAndSend, hr, hg, hb]
  split
  · exact h.goOn (.complete .invalidArgument) fun htorn => absurd htorn hp
  · refine Alike.goOn ?_ (.ask configureOp) ⟨hr, hg, hb⟩
    exact { h with phase := rfl, led := rfl }

/-- A `SETHSV` hands its results over as its channels, so the two blocks have the same colour (41_encoder.md R90). -/
theorem Alike.encodeAndSend_handOver_inStep (hp : s.phase ≠ .tornDown) (hsame : SameConversion s s') :
    InStep (encodeAndSend (handOver s)) (encodeAndSend (handOver s')) ∧
      SameConversion (encodeAndSend (handOver s)) (encodeAndSend (handOver s')) := by
  have hcolour : SameColour (handOver s) (handOver s') := by simp [SameColour, hsame.1]
  have hhanded : SameConversion (handOver s) (handOver s') := hsame
  exact ⟨Alike.encodeAndSend_inStep { h with } hp hcolour,
    hhanded.of_frame (encodeAndSend_goesOn _).toEncoderFrame (encodeAndSend_goesOn _).toEncoderFrame⟩

theorem Alike.convert (hh : s'.operands.h = s.operands.h) (hs : s'.operands.s = s.operands.s)
    (hv : s'.operands.v = s.operands.v) :
    Alike (convert s) (convert s') ∧ SameConversion (convert s) (convert s') := by
  refine ⟨{ h with draws := ?_ }, ?_, ?_⟩ <;>
    simp only [convert_draws, convert_results, convert_norm, hh, hs, hv, h.channelRounding, h.draws]

/-- A conversion reads the latched operands only; a rejected command leaves the results as they were. -/
theorem Alike.convertThen_inStep {next : State → State} (hh : s'.operands.h = s.operands.h)
    (hs : s'.operands.s = s.operands.s) (hv : s'.operands.v = s.operands.v)
    (hnext : ∀ u u', u.phase = .converting → Alike u u' → SameConversion u u' →
      InStep (next u) (next u') ∧ SameConversion (next u) (next u')) :
    InStep (convertThen next s) (convertThen next s') ∧
      (hsvRejected s.operands.h (f64OfBits s.operands.s) (f64OfBits s.operands.v) = false ∨ SameConversion s s' →
        SameConversion (convertThen next s) (convertThen next s')) := by
  have hconverting := h.withPhase .converting
  simp only [convertThen, hh, hs, hv]
  split
  case isTrue hrej =>
    refine ⟨hconverting.goOn (.complete .invalidArgument) nofun, ?_⟩
    rintro (hacc | hsame)
    · simp [hrej] at hacc
    · exact hsame
  case isFalse =>
    obtain ⟨halike, hsame⟩ := hconverting.convert hh hs hv
    obtain ⟨hin, hout⟩ := hnext _ _ rfl halike hsame
    exact ⟨hin, fun _ => hout⟩

end

/-! ### The step -/

theorem answerAck_inStep {op : PeriphOp} {next : Ack → State → State} {s s' t : State} (h : Alike s s')
    (hans : answerAck op next s = .next t) (hgo : ∀ a u, CommandGoesOn u (next a u))
    (hnext : ∀ a acks, InStep
      (next a (record (.periph op (.ack a)) { s with periph := { s.periph with acks := acks } }))
      (next a (record (.periph op (.ack a)) { s' with periph := { s'.periph with acks := acks } }))) :
    ∃ t' a, answerAck op next s' = .next t' ∧ InStep t t' ∧ t.trace = s.trace ++ [.periph op a]
      ∧ t'.trace = s'.trace ++ [.periph op a] := by
  obtain ⟨a, rest, ha, rfl⟩ := answerAck_next hans
  rw [← h.periph] at ha
  exact ⟨_, .ack a, answerAck_answered op next ha, hnext a rest, (hgo a _).trace, (hgo a _).trace⟩

/-- Two blocks in step get the same answer and stay in step. -/
theorem InStep.answer {op : PeriphOp} {s s' t : State} (h : InStep s s') (htodo : s.todo = some (.ask op))
    (hans : answer op s = .next t) :
    ∃ t' a, answer op s' = .next t' ∧ InStep t t' ∧ t.trace = s.trace ++ [.periph op a]
      ∧ t'.trace = s'.trace ++ [.periph op a] := by
  have hreads := h.reads _ htodo
  have hafter (e : Event) (acks : List Ack) : Alike (record e { s with periph := { s.periph with acks := acks } })
      (record e { s' with periph := { s'.periph with acks := acks } }) :=
    { h.toAlike with periph := by simp [h.periph] }
  cases op with
  | configure pin ch div lp =>
    exact answerAck_inStep h.toAlike hans onConfigure_goesOn fun a _ => (hafter _ _).onConfigure_inStep hreads a
  | install ch =>
    exact answerAck_inStep h.toAlike hans onInstall_goesOn fun a _ => (hafter _ _).onInstall_inStep hreads a
  | getClockFrequency ch =>
    obtain ⟨f, rest, hf, rfl⟩ := answerHz_next hans
    rw [← h.periph] at hf
    refine ⟨_, .hz f, answerHz_answered _ _ hf, ?_, (onFrequency_goesOn f _).trace, (onFrequency_goesOn f _).trace⟩
    have hafter : Alike
        (record (.periph (.getClockFrequency ch) (.hz f)) { s with periph := { s.periph with freqs := rest } })
        (record (.periph (.getClockFrequency ch) (.hz f)) { s' with periph := { s'.periph with freqs := rest } }) :=
      { h.toAlike with periph := by simp [h.periph] }
    exact hafter.onFrequency_inStep hreads f
  | write ch seq wait =>
    exact answerAck_inStep h.toAlike hans onWrite_goesOn fun a _ => (hafter _ _).onWrite_inStep hreads a
  | uninstall ch =>
    exact answerAck_inStep h.toAlike hans onUninstall_goesOn fun a _ => (hafter _ _).onUninstall_inStep hreads a

/-- Taking a command leaves the host's side and `STATUS` alone and is one event. -/
theorem exec_host_status_trace {i : Instr} {s t : State} (h : exec i s = .next t) :
    t.host = s.host ∧ t.status = s.status ∧ t.trace = s.trace ++ [.accept i] := by
  obtain ⟨-, -, -, ⟨r, g, b, -, rfl⟩ | ⟨hue, sat, val, -, rfl⟩ | ⟨hue, sat, val, -, rfl⟩⟩ := exec_next h
  · have hgo := encodeAndSend_goesOn (accept i s)
    exact ⟨hgo.host, hgo.status, hgo.trace⟩
  · rcases convertThen_cases (fun s => encodeAndSend (handOver s)) (accept i s) with ⟨-, heq⟩ | ⟨-, heq⟩ <;>
      rw [heq]
    · exact ⟨rfl, rfl, rfl⟩
    · have hgo := encodeAndSend_goesOn (handOver (convert { accept i s with phase := .converting }))
      exact ⟨hgo.host, hgo.status, hgo.trace⟩
  · rcases convertThen_cases (goOn (.complete .ok)) (accept i s) with ⟨-, heq⟩ | ⟨-, heq⟩ <;> rw [heq] <;>
      exact ⟨rfl, rfl, rfl⟩

theorem one_eq_f64OfNat : one = f64OfNat 1 := by decide +kernel

theorem hsvRejected_eq_false_iff (h : U32) (sat val : U64) :
    hsvRejected h (f64OfBits sat) (f64OfBits val) = false ↔ ¬ HsvInvalid h sat val := by
  simp only [hsvRejected, Bool.or_eq_false_iff, decide_eq_false_iff_not, and_assoc]
  simp only [HsvInvalid, one_eq_f64OfNat, hueMax, not_or, Bool.not_eq_true]

/-- The command converts: an HSV command that passes validation (40_normalizer.md R73, R74). -/
def ConvertsHsv : Instr → Prop
  | .sethsv h sat val  => ¬ HsvInvalid h sat val
  | .hsv2rgb h sat val => ¬ HsvInvalid h sat val
  | _                  => False

/-- Two ready blocks take a command alike. -/
theorem Alike.exec {i : Instr} {s s' t : State} (h : Alike s s') (hexec : exec i s = .next t) :
    ∃ t', Machine.exec i s' = .next t' ∧ InStep t t' ∧
      (ConvertsHsv i ∨ SameConversion s s' → SameConversion t t') := by
  obtain ⟨hf, hp, ht, hcmd⟩ := exec_next hexec
  have hready (run : State → State) : whenReady s' run = .next (run s') :=
    whenReady_of_ready run (h.fault.trans hf) (h.phase.trans hp) (h.todo.trans ht)
  have haccept (i : Instr) : Alike (accept i s) (accept i s') := { h with }
  rcases hcmd with ⟨r, g, b, rfl, rfl⟩ | ⟨hue, sat, val, rfl, rfl⟩ | ⟨hue, sat, val, rfl, rfl⟩
  · refine ⟨_, (exec_setrgb r g b s').trans (hready _), ?_, ?_⟩
    · exact (haccept (.setrgb r g b)).encodeAndSend_inStep (by simp [hp]) ⟨rfl, rfl, rfl⟩
    · rintro (hconv | hsame)
      · exact hconv.elim
      · have haccepted : SameConversion (accept (.setrgb r g b) s) (accept (.setrgb r g b) s') := hsame
        exact haccepted.of_frame (encodeAndSend_goesOn _).toEncoderFrame (encodeAndSend_goesOn _).toEncoderFrame
  · obtain ⟨hin, hconv⟩ := (haccept (.sethsv hue sat val)).convertThen_inStep rfl rfl rfl
      fun u u' hpu hu hsame => hu.encodeAndSend_handOver_inStep (by simp [hpu]) hsame
    exact ⟨_, (exec_sethsv hue sat val s').trans (hready _), hin,
      fun hor => hconv (hor.imp_left (hsvRejected_eq_false_iff hue sat val).mpr)⟩
  · obtain ⟨hin, hconv⟩ := (haccept (.hsv2rgb hue sat val)).convertThen_inStep
      (next := Machine.goOn (.complete .ok)) rfl rfl rfl
      fun u u' hpu hu hsame => ⟨hu.goOn (.complete .ok) (by simp [SameReads, hpu]), hsame⟩
    exact ⟨_, (exec_hsv2rgb hue sat val s').trans (hready _), hin,
      fun hor => hconv (hor.imp_left (hsvRejected_eq_false_iff hue sat val).mpr)⟩

/-! ### The run -/

/-- The event ends a command: `STATUS` was written. -/
def Event.Ends : Event → Prop
  | .complete _ => True
  | .fatal _    => True
  | _           => False

/-- The event is the accept of a command that converts: the results and the working registers were written. -/
def Event.Converts : Event → Prop
  | .accept i => ConvertsHsv i
  | _         => False

/-- Two blocks that have run alike so far, with the events `new` since they were alike: they are in step, and what the
run has written holds the same. -/
structure RunAlike (new : List Event) (s s' : State) : Prop extends InStep s s' where
  quiet : s.host.resetReq = false
  status : (∃ e ∈ new, e.Ends) → s'.status = s.status
  conversion : (∃ e ∈ new, e.Converts) → SameConversion s s'

theorem RunAlike.event {new : List Event} {s s' t t' : State} (h : RunAlike new s s') {e : Event}
    (hin : InStep t t') (hquiet : t.host.resetReq = s.host.resetReq)
    (hstatus : e.Ends ∨ s'.status = s.status → t'.status = t.status)
    (hconv : e.Converts ∨ SameConversion s s' → SameConversion t t') : RunAlike (new ++ [e]) t t' where
  toInStep := hin
  quiet := hquiet.trans h.quiet
  status := by
    rintro ⟨x, hx, hends⟩
    rcases List.mem_append.mp hx with hold | hnew
    · exact hstatus (.inr (h.status ⟨x, hold, hends⟩))
    · exact hstatus (.inl (List.mem_singleton.mp hnew ▸ hends))
  conversion := by
    rintro ⟨x, hx, hconverts⟩
    rcases List.mem_append.mp hx with hold | hnew
    · exact hconv (.inr (h.conversion ⟨x, hold, hconverts⟩))
    · exact hconv (.inl (List.mem_singleton.mp hnew ▸ hconverts))

/-- A command's next step, taken by both blocks, is the same event and keeps them alike. -/
theorem RunAlike.advance {new : List Event} {s s' t : State} {next : CommandStep} (h : RunAlike new s s')
    (htodo : s.todo = some next) (hadv : advance next s = .next t) :
    ∃ t' e, Machine.advance next s' = .next t' ∧ t.trace = s.trace ++ [e] ∧ t'.trace = s'.trace ++ [e]
      ∧ RunAlike (new ++ [e]) t t' := by
  have hreads := h.reads next htodo
  rcases advance_next hadv with ⟨op, rfl, hans⟩ | ⟨o, rfl, rfl⟩ | ⟨err, rfl, rfl⟩
  · obtain ⟨t', a, hans', hin, htrace, htrace'⟩ := h.toInStep.answer htodo hans
    obtain ⟨hframe, hstatus⟩ := answer_frame hans
    obtain ⟨hframe', hstatus'⟩ := answer_frame hans'
    refine ⟨t', .periph op a, hans', htrace, htrace', h.event hin (by rw [hframe.host]) ?_ ?_⟩
    · rintro (hends | hsame)
      · exact hends.elim
      · rw [hstatus', hstatus, hsame]
    · rintro (hconv | hsame)
      · exact hconv.elim
      · exact hsame.of_frame hframe hframe'
  · refine ⟨_, .complete o, rfl, rfl, rfl, h.event (h.complete_inStep o hreads) rfl (fun _ => rfl) ?_⟩
    exact fun hor => hor.elim False.elim fun hsame => hsame.of_frame (complete_frame o s) (complete_frame o s')
  · refine ⟨_, .fatal err, rfl, rfl, rfl, h.event (h.enterFault_inStep err) rfl (fun _ => rfl) ?_⟩
    exact fun hor => hor.elim False.elim fun hsame => hsame.of_frame (enterFault_frame err s) (enterFault_frame err s')

theorem RunAlike.step {new : List Event} {s s' t : State} (h : RunAlike new s s') (hstep : step s = .next t) :
    ∃ t' more, Machine.step s' = .next t' ∧ t.trace = s.trace ++ more ∧ t'.trace = s'.trace ++ more
      ∧ RunAlike (new ++ more) t t' := by
  have hquiet' : s'.host.resetReq = false := h.host ▸ h.quiet
  rcases step_next hstep with ⟨hr, -⟩ | ⟨-, hf, hcases⟩
  · simp [h.quiet] at hr
  have hf' : s'.fault = false := h.fault.trans hf
  rcases hcases with ⟨next, htodo, hadv⟩ | ⟨htodo, hcmds, rfl⟩ | ⟨w, rest, htodo, hcmds, hexec⟩
  · obtain ⟨t', e, hadv', htrace, htrace', hnew⟩ := h.advance htodo hadv
    exact ⟨t', [e], (step_of_todo hquiet' hf' (h.todo.trans htodo)).trans hadv', htrace, htrace', hnew⟩
  · exact ⟨s', [], step_of_waiting hquiet' hf' (h.todo.trans htodo) (h.host ▸ hcmds), by simp, by simp,
      by simpa using h⟩
  · have halike : Alike { s with host := { s.host with cmds := rest } }
        { s' with host := { s'.host with cmds := rest } } :=
      { h.toAlike with host := by simp [h.host] }
    obtain ⟨t', hexec', hin, hconv⟩ := halike.exec hexec
    obtain ⟨hhost, hstatus, htrace⟩ := exec_host_status_trace hexec
    obtain ⟨-, hstatus', htrace'⟩ := exec_host_status_trace hexec'
    refine ⟨t', [.accept (decode w)], ?_, htrace, htrace', h.event hin (by rw [hhost]) ?_ hconv⟩
    · exact (step_of_command hquiet' hf' (h.todo.trans htodo) (h.host ▸ hcmds)).trans hexec'
    · rintro (hends | hsame)
      · exact hends.elim
      · rw [hstatus', hstatus, hsame]

theorem RunAlike.run {n : Nat} {new : List Event} {s s' t : State} (h : RunAlike new s s') (hrun : run n s = .next t) :
    ∃ t' more, Machine.run n s' = .next t' ∧ t.trace = s.trace ++ more ∧ t'.trace = s'.trace ++ more
      ∧ RunAlike (new ++ more) t t' := by
  induction n generalizing new s s' with
  | zero =>
    cases hrun
    exact ⟨s', [], rfl, by simp, by simp, by simpa using h⟩
  | succ n ih =>
    obtain ⟨u, hu, hrest⟩ := run_succ_next hrun
    obtain ⟨u', first, hu', htrace, htrace', hstep⟩ := h.step hu
    obtain ⟨t', more, hrun', hmore, hmore', halike⟩ := ih hstep hrest
    exact ⟨t', first ++ more, (run_succ n hu').trans hrun', by rw [hmore, htrace, List.append_assoc],
      by rw [hmore', htrace', List.append_assoc], by rwa [← List.append_assoc]⟩

/-- Settles O55: ready blocks are alike before their first event, and `RunAlike.run` keeps them so. -/
theorem resultsDoNotDependOnLeftOverValues : Obligations.ResultsDoNotDependOnLeftOverValues := by
  rintro n s s' t ⟨⟨hf, hp, ht⟩, hquiet⟩ ⟨hf', hp', ht'⟩ hhost hperiph hled hassume hround hdraws hrun
  have hstart : RunAlike [] s s' := {
    phase := hp'.trans hp.symm
    todo := ht'.trans ht.symm
    fault := hf'.trans hf.symm
    host := hhost
    periph := hperiph
    led := hled
    ledAssumptions := hassume
    channelRounding := hround
    draws := hdraws
    reads := by simp [ht]
    quiet := hquiet
    status := by simp
    conversion := by simp }
  obtain ⟨t', new, hrun', htrace, htrace', h⟩ := hstart.run hrun
  refine ⟨t', new, hrun', htrace, htrace', h.phase, h.todo, h.fault, h.host, h.periph, h.led, h.draws, ?_, ?_⟩
  · rintro (⟨o, ho⟩ | ⟨e, he⟩)
    · exact h.status ⟨_, ho, trivial⟩
    · exact h.status ⟨_, he, trivial⟩
  · rintro hue sat val (hacc | hacc) hvalid
    · exact h.conversion ⟨_, hacc, hvalid⟩
    · exact h.conversion ⟨_, hacc, hvalid⟩

end Sys2Proof.Machine
end

section
/-! PROOFS. The frame of `HSV2RGB`: its accept writes the operands and the normalizer's registers, and the one step
after it is its completion. -/

open Sys2Proof.Claims

namespace Sys2Proof.Machine

/-- What `HSV2RGB` writes in none of its states, from the state `s` it is taken in to the state `t`, and that it adds no
interface event (20_memory.md R37). -/
structure NormalizerFrame (s t : State) : Prop where
  periph : t.periph = s.periph
  enc : t.enc = s.enc
  led : t.led = s.led
  ledAssumptions : t.ledAssumptions = s.ledAssumptions
  host : t.host = s.host
  channelRounding : t.channelRounding = s.channelRounding
  resets : t.resets = s.resets
  r : t.operands.r = s.operands.r
  g : t.operands.g = s.operands.g
  b : t.operands.b = s.operands.b
  events : ∀ op a, .periph op a ∈ t.trace → .periph op a ∈ s.trace

/-- What holds in every state `t` of a `HSV2RGB` taken in `s`: it is before its completion or at its end. -/
structure Hsv2rgbCourse (h : U32) (sat val : U64) (s t : State) : Prop where
  frame : NormalizerFrame s t
  fault : t.fault = false
  stage : (t.phase = .converting ∧ t.status = s.status ∧ ∃ o, t.todo = some (.complete o))
    ∨ (t.phase = .idle ∧ t.todo = none)
  rejected : HsvInvalid h sat val → t.norm = s.norm ∧ t.results = s.results ∧ t.draws = s.draws

/-- The accept latches no channel, and nothing but the normalizer's own registers is written on the way to the
completion (40_normalizer.md R73, R74). -/
theorem Hsv2rgbCourse.of_writes {h : U32} {sat val : U64} {s : State} (hf : s.fault = false) (o : CmdOutcome)
    (norm : NormRegs) (results : ResultRegs) (draws : Nat)
    (hrej : HsvInvalid h sat val → norm = s.norm ∧ results = s.results ∧ draws = s.draws) :
    Hsv2rgbCourse h sat val s { accept (.hsv2rgb h sat val) s with
      phase := .converting, todo := some (.complete o), norm := norm, results := results, draws := draws } where
  frame := by constructor <;> simp [latchOperands]
  fault := hf
  stage := .inl ⟨rfl, rfl, o, rfl⟩
  rejected := hrej

theorem hsv2rgbCourse_begins {h : U32} {sat val : U64} {s t : State} (hexec : exec (.hsv2rgb h sat val) s = .next t) :
    Hsv2rgbCourse h sat val s t := by
  rw [exec_hsv2rgb] at hexec
  obtain ⟨hf, -, -, rfl⟩ := whenReady_next hexec
  rcases convertThen_cases (goOn (.complete .ok)) (accept (.hsv2rgb h sat val) s) with ⟨-, heq⟩ | ⟨hacc, heq⟩ <;>
    rw [heq]
  · exact .of_writes hf .invalidArgument _ _ _ fun _ => ⟨rfl, rfl, rfl⟩
  · have hvalid : ¬ HsvInvalid h sat val := (hsvRejected_eq_false_iff h sat val).mp hacc
    exact .of_writes hf .ok _ _ _ fun hinv => absurd hinv hvalid

/-- The completion writes `STATUS` and `PHASE`; the LED shows nothing new, for nothing was torn down (60_exceptions.md
R133). -/
theorem Hsv2rgbCourse.complete {h : U32} {sat val : U64} {s t : State} (hc : Hsv2rgbCourse h sat val s t)
    (hp : t.phase = .converting) (o : CmdOutcome) : Hsv2rgbCourse h sat val s (complete o t) where
  frame := { hc.frame with
    led := by simp [ledAfterCommand, hp, hc.frame.led]
    events := by simpa using hc.frame.events }
  fault := hc.fault
  stage := .inr ⟨rfl, rfl⟩
  rejected := hc.rejected

theorem Hsv2rgbCourse.step {h : U32} {sat val : U64} {s t u : State} (hr : s.host.resetReq = false)
    (hc : Hsv2rgbCourse h sat val s t) (htodo : t.todo ≠ none) (hstep : step t = .next u) :
    Hsv2rgbCourse h sat val s u := by
  have hquiet : t.host.resetReq = false := by rw [hc.frame.host]; exact hr
  rcases hc.stage with ⟨hp, -, o, ho⟩ | ⟨-, hnone⟩
  · rw [step_of_todo hquiet hc.fault ho] at hstep
    cases hstep
    exact hc.complete hp o
  · exact absurd hnone htodo

/-- Settles O25, by induction over the states of the command. -/
theorem hsv2rgbFrame : Obligations.Hsv2rgbFrame := by
  intro s t h sat val hr hreach
  obtain ⟨hframe, hfault, hstage, hrej⟩ : Hsv2rgbCourse h sat val s t :=
    commandReaches_induction hreach (fun _ => hsv2rgbCourse_begins) (fun _ _ hc => hc.step hr)
  obtain ⟨hstatus, hidle⟩ : (t.todo ≠ none → t.status = s.status) ∧ (t.todo = none → t.phase = .idle) := by
    rcases hstage with ⟨-, hstatus, o, ho⟩ | ⟨hidle, hnone⟩
    · exact ⟨fun _ => hstatus, by simp [ho]⟩
    · exact ⟨absurd hnone, fun _ => hidle⟩
  exact ⟨hframe.periph, hframe.enc, hframe.led, hframe.ledAssumptions, hframe.host, hframe.channelRounding,
    hframe.resets, hfault, hframe.r, hframe.g, hframe.b, hstatus, hidle, hrej, hframe.events⟩

end Sys2Proof.Machine
end

section
/-! PROOFS. The command word: fields placed and read back, the decoder by `op`, and the encoder as its inverse
(30_encoding.md R46 to R50, R59). -/

open Sys2Proof.Claims

namespace Sys2Proof

/-! ### A field placed in a word and read back -/

/-- A placed field is read back from its own position. -/
theorem atBit_extractLsb'_self {n : Nat} (value : BitVec n) {p : Nat} (h : p + n ≤ 162) :
    (atBit value p).extractLsb' p n = value := by
  refine BitVec.eq_of_getLsbD_eq fun i hi => ?_
  rw [BitVec.getLsbD_extractLsb', atBit_getLsbD]
  simp [hi, show p + i < 162 by omega]

/-- A placed field leaves every position outside its own zero. -/
theorem atBit_extractLsb'_apart {n : Nat} (value : BitVec n) {p q m : Nat} (h : p + n ≤ q ∨ q + m ≤ p) :
    (atBit value p).extractLsb' q m = 0 := by
  refine BitVec.eq_of_getLsbD_eq fun i hi => ?_
  rw [BitVec.getLsbD_extractLsb', atBit_getLsbD]
  rcases h with habove | hbelow
  · simp [BitVec.getLsbD_of_ge value (q + i - p) (by omega)]
  · simp [show q + i < p by omega]

/-- A field put back where it was read from has the word's bits there, and no others. -/
theorem atBit_extractLsb'_getLsbD (w : CmdWord) {p n : Nat} (k : Nat) (h : p + n ≤ 162) :
    (atBit (w.extractLsb' p n) p).getLsbD k = (decide (p ≤ k ∧ k < p + n) && w.getLsbD k) := by
  rw [atBit_getLsbD, BitVec.getLsbD_extractLsb']
  by_cases hk : p ≤ k ∧ k < p + n
  · simp [hk, show k < 162 by omega, show ¬ k < p by omega, show k - p < n by omega, show p + (k - p) = k by omega]
  · rw [decide_eq_false hk]
    simp
    omega

/-! ### The decoder by `op` -/

theorem decode_of_op_zero {w : CmdWord} (h : opField w = 0) :
    decode w = .setrgb (firstField w) (gField w) (bField w) := by simp [decode, h]

theorem decode_of_op_one {w : CmdWord} (h : opField w = 1) :
    decode w = .sethsv (firstField w) (sField w) (vField w) := by simp [decode, h]

theorem decode_of_op_two {w : CmdWord} (h : opField w = 2) :
    decode w = .hsv2rgb (firstField w) (sField w) (vField w) := by simp [decode, h]

theorem decode_of_op_three {w : CmdWord} (h : opField w = 3) : decode w = .reservedOp11 := by simp [decode, h]

/-- The operation field has four values (R46). -/
theorem opField_cases (w : CmdWord) : opField w = 0 ∨ opField w = 1 ∨ opField w = 2 ∨ opField w = 3 := by
  generalize opField w = op
  revert op
  decide

/-- The operands of a word of format C are read back (R47). -/
theorem formatC_fields (op : BitVec 2) (r g b : U32) :
    let w := atBit op 160 ||| atBit r 128 ||| atBit g 96 ||| atBit b 64
    firstField w = r ∧ gField w = g ∧ bField w = b := by
  simp (disch := omega) [firstField, gField, bField, BitVec.extractLsb'_or, atBit_extractLsb'_self,
    atBit_extractLsb'_apart]

/-- The operands of a word of format H are read back (R48). -/
theorem formatH_fields (op : BitVec 2) (h : U32) (s v : U64) :
    let w := atBit op 160 ||| atBit h 128 ||| atBit s 64 ||| atBit v 0
    firstField w = h ∧ sField w = s ∧ vField w = v := by
  simp (disch := omega) [firstField, sField, vField, BitVec.extractLsb'_or, atBit_extractLsb'_self,
    atBit_extractLsb'_apart]

/-- Settles O1: `op` is read back, so the decoder takes the format the word was encoded in, and reads its operands
back. -/
theorem decodeOfEncodeIsIdentity : Obligations.DecodeOfEncodeIsIdentity := by
  intro i
  cases i with
  | setrgb r g b =>
    obtain ⟨hr, hg, hb⟩ := formatC_fields 0#2 r g b
    rw [decode_of_op_zero (Laws.OperationField.setrgb r g b), encode, hr, hg, hb]
  | sethsv h s v =>
    obtain ⟨hh, hs, hv⟩ := formatH_fields 1#2 h s v
    rw [decode_of_op_one (Laws.OperationField.sethsv h s v), encode, hh, hs, hv]
  | hsv2rgb h s v =>
    obtain ⟨hh, hs, hv⟩ := formatH_fields 2#2 h s v
    rw [decode_of_op_two (Laws.OperationField.hsv2rgb h s v), encode, hh, hs, hv]
  | reservedOp11 => exact decode_of_op_three Laws.OperationField.reservedOp11

/-! ### The encoder on a decoded word -/

/-- A word of format C comes back without its ignored bits (R47, R50). -/
theorem encode_decode_getLsbD_of_formatC {w : CmdWord} (h : opField w = 0) {k : Nat} (hk : k < 162) :
    (encode (decode w)).getLsbD k = (w.getLsbD k && !decide (k < 64)) := by
  rw [decode_of_op_zero h, encode, show 0#2 = opField w from h.symm, opField, firstField, gField, bField]
  simp (disch := omega) only [BitVec.getLsbD_or, atBit_extractLsb'_getLsbD]
  rw [Bool.eq_iff_iff]
  cases w.getLsbD k <;> simp
  omega

/-- A word of format H comes back whole: its fields leave no gap (R48). -/
theorem encode_decode_of_formatH {w : CmdWord} (h : opField w = 1 ∨ opField w = 2) : encode (decode w) = w := by
  have hfields : encode (decode w) =
      atBit (opField w) 160 ||| atBit (firstField w) 128 ||| atBit (sField w) 64 ||| atBit (vField w) 0 := by
    rcases h with h | h
    · rw [decode_of_op_one h, h, encode]
      rfl
    · rw [decode_of_op_two h, h, encode]
      rfl
  rw [hfields, opField, firstField, sField, vField]
  refine BitVec.eq_of_getLsbD_eq fun k hk => ?_
  simp (disch := omega) only [BitVec.getLsbD_or, atBit_extractLsb'_getLsbD]
  rw [Bool.eq_iff_iff]
  cases w.getLsbD k <;> simp
  omega

/-- Of a reserved word `op` alone comes back (log 14). -/
theorem encode_decode_getLsbD_of_reserved {w : CmdWord} (h : opField w = 3) {k : Nat} (hk : k < 162) :
    (encode (decode w)).getLsbD k = (w.getLsbD k && !decide (k < 160)) := by
  rw [decode_of_op_three h, encode, show 3#2 = opField w from h.symm, opField, atBit_extractLsb'_getLsbD w k (by omega)]
  rw [Bool.eq_iff_iff]
  cases w.getLsbD k <;> simp
  omega

/-- Settles O2, format by format. -/
theorem encodeOfDecodeKeepsEveryReadBit : Obligations.EncodeOfDecodeKeepsEveryReadBit := by
  intro w k hk
  change _ = (w.getLsbD k && !(decide (opField w = 0) && _) && !(decide (opField w = 3) && _))
  rcases opField_cases w with h | h | h | h
  · simp [encode_decode_getLsbD_of_formatC h hk, h]
  · simp [encode_decode_of_formatH (.inl h), h]
  · simp [encode_decode_of_formatH (.inr h), h]
  · simp [encode_decode_getLsbD_of_reserved h hk, h]

/-! ### The match and mask table -/

/-- Under the mask of `op` a word is its operation field alone. -/
theorem and_mask_eq (w : CmdWord) : w &&& atBit 3#2 160 = atBit (opField w) 160 := by
  refine BitVec.eq_of_getLsbD_eq fun k hk => ?_
  rw [BitVec.getLsbD_and, opField, atBit_extractLsb'_getLsbD w k (by omega), atBit_getLsbD, Bool.and_comm]
  by_cases hop : 160 ≤ k
  · obtain rfl | rfl : k = 160 ∨ k = 161 := by omega
    · rfl
    · rfl
  · simp [show k < 160 by omega, hop]

/-- A row whose mask is that of `op` matches the words with the operation it fixes. -/
theorem matchesWord_iff {row : OpcodeRow} {op : BitVec 2} (hmask : row.mask = atBit 3#2 160)
    (hmatch : row.matchBits = atBit op 160) (w : CmdWord) : row.matchesWord w = true ↔ opField w = op := by
  rw [OpcodeRow.matchesWord, beq_iff_eq, hmask, hmatch, and_mask_eq]
  refine ⟨fun h => ?_, fun h => by rw [h]⟩
  have hread := congrArg opField h
  simpa only [opField, atBit_extractLsb'_self _ (show 160 + 2 ≤ 162 by omega)] using hread

/-- The mnemonic that R59 gives an operation. -/
def mnemonicOfOp (op : BitVec 2) : String :=
  if op = 0 then "SETRGB" else if op = 1 then "SETHSV" else if op = 2 then "HSV2RGB" else "RESERVED_OP11"

theorem decode_mnemonic (w : CmdWord) : (decode w).mnemonic = mnemonicOfOp (opField w) := by
  unfold decode mnemonicOfOp
  split_ifs <;> rfl

theorem mnemonicOfOp_inj : ∀ op op' : BitVec 2, mnemonicOfOp op = mnemonicOfOp op' ↔ op = op' := by decide

/-- Every row masks `op`, fixes a value of it and bears that operation's mnemonic. -/
theorem opcodeTable_row : ∀ row ∈ opcodeTable, ∃ op : BitVec 2,
    row.mask = atBit 3#2 160 ∧ row.matchBits = atBit op 160 ∧ row.mnemonic = mnemonicOfOp op := by decide

/-- Settles O6: a row's match and its mnemonic both say that `op` has the value the row fixes. -/
theorem opcodeTableSelectsTheInstruction : Obligations.OpcodeTableSelectsTheInstruction := by
  refine ⟨fun _ => ⟨decode_of_op_zero, decode_of_op_one, decode_of_op_two, decode_of_op_three⟩, fun w row hrow => ?_⟩
  obtain ⟨op, hmask, hmatch, hmnemonic⟩ := opcodeTable_row row hrow
  rw [matchesWord_iff hmask hmatch, decode_mnemonic, hmnemonic, mnemonicOfOp_inj]

/-- Settles O7: the words of 95_test_vectors.md, evaluated. -/
theorem sampleWordsDecode : Obligations.SampleWordsDecode := by
  unfold Obligations.SampleWordsDecode
  decide +kernel

end Sys2Proof
end

section
/-! PROOFS. Which words a block takes, and what taking one is (30_encoding.md R45, R50 to R52). -/

open Sys2Proof.Claims

namespace Sys2Proof.Machine

/-! ### The accept of a command -/

theorem exec_reservedOp11 {s : State} (hf : s.fault = false) : exec .reservedOp11 s = .refused .reservedOpcode := by
  simp [exec, execReservedOp11, hf]

/-- Every command has a meaning behind the one gate of R45. -/
theorem exec_eq_whenReady {i : Instr} (h : i.wellFormed = true) :
    ∃ meaning : State → State, ∀ s, exec i s = whenReady s meaning := by
  cases i with
  | setrgb r g b => exact ⟨_, exec_setrgb r g b⟩
  | sethsv hue sat val => exact ⟨_, exec_sethsv hue sat val⟩
  | hsv2rgb hue sat val => exact ⟨_, exec_hsv2rgb hue sat val⟩
  | reservedOp11 => cases h

theorem exec_of_ready {i : Instr} {s : State} (h : i.wellFormed = true) (hready : Ready s) :
    ∃ t, exec i s = .next t := by
  obtain ⟨meaning, hexec⟩ := exec_eq_whenReady h
  obtain ⟨hf, hp, ht⟩ := hready
  exact ⟨meaning s, (hexec s).trans (whenReady_of_ready meaning hf hp ht)⟩

theorem exec_of_busy {i : Instr} {s : State} (h : i.wellFormed = true) (hf : s.fault = false) (hbusy : ¬ Ready s) :
    exec i s = .refused .notIdle := by
  obtain ⟨meaning, hexec⟩ := exec_eq_whenReady h
  exact (hexec s).trans (whenReady_of_busy meaning hf fun hidle => hbusy ⟨hf, hidle⟩)

theorem encodeAndSend_todo (s : State) : (encodeAndSend s).todo ≠ none := by
  rcases encodeAndSend_cases s with ⟨-, heq⟩ | ⟨-, heq⟩ <;> rw [heq] <;> exact Option.some_ne_none _

theorem convertThen_todo {next : State → State} (hnext : ∀ s, (next s).todo ≠ none) (s : State) :
    (convertThen next s).todo ≠ none := by
  rcases convertThen_cases next s with ⟨-, heq⟩ | ⟨-, heq⟩ <;> rw [heq]
  · exact Option.some_ne_none _
  · exact hnext _

/-- A command that was taken is in progress. -/
theorem exec_todo {i : Instr} {s t : State} (h : exec i s = .next t) : t.todo ≠ none := by
  obtain ⟨-, -, -, ⟨r, g, b, -, rfl⟩ | ⟨hue, sat, val, -, rfl⟩ | ⟨hue, sat, val, -, rfl⟩⟩ := exec_next h
  · exact encodeAndSend_todo _
  · exact convertThen_todo (fun s => encodeAndSend_todo (handOver s)) _
  · exact convertThen_todo (fun _ => Option.some_ne_none _) _

/-- `SETRGB` latches its three channels and `op` (R47). -/
theorem exec_setrgb_operands {r g b : U32} {s t : State} (h : exec (.setrgb r g b) s = .next t) :
    t.operands = { s.operands with op := 0, r := r, g := g, b := b } := by
  rw [exec_setrgb] at h
  obtain ⟨-, -, -, rfl⟩ := whenReady_next h
  exact (encodeAndSend_goesOn _).operands

/-- `HSV2RGB` latches its operands and `op` (R48). -/
theorem exec_hsv2rgb_operands {hue : U32} {sat val : U64} {s t : State}
    (h : exec (.hsv2rgb hue sat val) s = .next t) :
    t.operands = { s.operands with op := 2, h := hue, s := sat, v := val } := by
  rw [exec_hsv2rgb] at h
  obtain ⟨-, -, -, rfl⟩ := whenReady_next h
  rcases convertThen_cases (goOn (.complete .ok)) (accept (.hsv2rgb hue sat val) s) with ⟨-, heq⟩ | ⟨-, heq⟩ <;>
    rw [heq] <;> rfl

/-- `SETHSV` latches its operands and `op` (R48); the hand-over writes the channels only. -/
theorem exec_sethsv_operands {hue : U32} {sat val : U64} {s t : State}
    (h : exec (.sethsv hue sat val) s = .next t) :
    t.operands.op = 1 ∧ t.operands.h = hue ∧ t.operands.s = sat ∧ t.operands.v = val := by
  rw [exec_sethsv] at h
  obtain ⟨-, -, -, rfl⟩ := whenReady_next h
  rcases convertThen_cases (fun s => encodeAndSend (handOver s)) (accept (.sethsv hue sat val) s) with
    ⟨-, heq⟩ | ⟨-, heq⟩ <;> rw [heq]
  · exact ⟨rfl, rfl, rfl, rfl⟩
  · rw [(encodeAndSend_goesOn _).operands]
    exact ⟨rfl, rfl, rfl, rfl⟩

/-- Settles O9: the gate decides whether a command is taken, and its accept latches the fields of its format. -/
theorem commandIsTakenExactlyWhenIdle : Obligations.CommandIsTakenExactlyWhenIdle := by
  intro i s hwf
  refine ⟨⟨fun ⟨t, ht⟩ => ?_, exec_of_ready hwf⟩, exec_of_busy hwf, fun t ht => ?_⟩
  · obtain ⟨hf, hp, htodo, -⟩ := exec_next ht
    exact ⟨hf, hp, htodo⟩
  · refine ⟨(exec_host_status_trace ht).2.2, exec_todo ht, ?_⟩
    cases i with
    | setrgb r g b => exact exec_setrgb_operands ht
    | sethsv hue sat val => exact exec_sethsv_operands ht
    | hsv2rgb hue sat val => exact exec_hsv2rgb_operands ht
    | reservedOp11 => cases hwf

/-! ### The word presented next -/

/-- Settles O8: the step's own equation for a word presented to a block at rest. -/
theorem stepRunsTheDecodedInstruction : Obligations.StepRunsTheDecodedInstruction :=
  fun _ _ _ hr hready hcmds => step_of_command hr hready.1 hready.2.2 hcmds

/-- A block with no command in progress does with a word what its decoded instruction means, whatever `FAULT` is: with
`FAULT = 1` both are stuck. -/
theorem step_withCommands {s : State} {w : CmdWord} {rest : List CmdWord} (hr : s.host.resetReq = false)
    (ht : s.todo = none) : step (withCommands s (w :: rest)) = exec (decode w) (withCommands s rest) := by
  cases hf : s.fault with
  | false => exact step_of_command (s := withCommands s (w :: rest)) hr hf ht rfl
  | true =>
    rw [step_of_fault (s := withCommands s (w :: rest)) hr hf, exec_of_fault (s := withCommands s rest) _ hf]

/-- A field above position 64 is the same in two words that agree from there up. -/
theorem extractLsb'_congr_of_ushiftRight {w w' : CmdWord} (h : w >>> 64 = w' >>> 64) {p : Nat} (n : Nat)
    (hp : 64 ≤ p) : w.extractLsb' p n = w'.extractLsb' p n := by
  refine BitVec.eq_of_getLsbD_eq fun i hi => ?_
  have hbit := congrArg (fun v : CmdWord => v.getLsbD (p + i - 64)) h
  simpa [hi, show 64 + (p + i - 64) = p + i by omega] using hbit

theorem decode_congr_of_formatC {w w' : CmdWord} (hop : opField w = 0) (h : w >>> 64 = w' >>> 64) :
    decode w = decode w' := by
  have hfield {p : Nat} (n : Nat) (hp : 64 ≤ p) := extractLsb'_congr_of_ushiftRight h n hp
  have hop' : opField w' = 0 := (hfield 2 (by omega)).symm.trans hop
  rw [decode_of_op_zero hop, decode_of_op_zero hop']
  exact congr (congrArg₂ Instr.setrgb (hfield 32 (by omega)) (hfield 32 (by omega))) (hfield 32 (by omega))

/-- Settles O3: the two words decode alike, and the encoder places no field of format C below bit 64. -/
theorem ignoredBitsOfSetrgbChangeNothing : Obligations.IgnoredBitsOfSetrgbChangeNothing := by
  refine ⟨fun s w w' rest hr ht hop h => ?_, fun r g b => ?_⟩
  · rw [step_withCommands hr ht, step_withCommands hr ht, decode_congr_of_formatC hop h]
  · simp (disch := omega) [encode, BitVec.extractLsb'_or, atBit_extractLsb'_apart]

/-- Settles O4: such a word decodes to the reserved instruction, whose meaning is the refusal. -/
theorem reservedWordIsRefused : Obligations.ReservedWordIsRefused := by
  refine ⟨fun s w rest ⟨hf, _, ht⟩ hr hop => ?_, fun s => exec_reservedOp11⟩
  rw [step_withCommands hr ht, decode_of_op_three hop]
  exact exec_reservedOp11 hf

/-! ### Operands out of range -/

theorem decode_wellFormed {w : CmdWord} (h : opField w ≠ 3) : (decode w).wellFormed = true := by
  rcases opField_cases w with hop | hop | hop | hop
  · rw [decode_of_op_zero hop]
    rfl
  · rw [decode_of_op_one hop]
    rfl
  · rw [decode_of_op_two hop]
    rfl
  · exact absurd hop h

/-- The operands are out of range: the command's own first validation rejects them (40_normalizer.md R61,
41_encoder.md R81). -/
def OperandsInvalid : Instr → Prop
  | .setrgb r g b        => RgbInvalid r g b
  | .sethsv hue sat val  => HsvInvalid hue sat val
  | .hsv2rgb hue sat val => HsvInvalid hue sat val
  | .reservedOp11        => False

theorem encodeAndSend_of_invalid {s : State} (h : RgbInvalid s.operands.r s.operands.g s.operands.b) :
    encodeAndSend s = raise .invalidArgument s := if_pos ((rgbRejected_eq_true_iff _ _ _).mpr h)

theorem hsvRejected_eq_true_iff (hue : U32) (sat val : U64) :
    hsvRejected hue (f64OfBits sat) (f64OfBits val) = true ↔ HsvInvalid hue sat val := by
  rw [← not_iff_not, Bool.not_eq_true, hsvRejected_eq_false_iff]

theorem convertThen_of_invalid {s : State} (next : State → State)
    (h : HsvInvalid s.operands.h s.operands.s s.operands.v) :
    convertThen next s = raise .invalidArgument { s with phase := .converting } :=
  if_pos ((hsvRejected_eq_true_iff _ _ _).mpr h)

theorem convertThen_of_valid {s : State} (next : State → State)
    (h : ¬ HsvInvalid s.operands.h s.operands.s s.operands.v) :
    convertThen next s = next (convert { s with phase := .converting }) :=
  if_neg (mt (hsvRejected_eq_true_iff _ _ _).mp h)

/-- A command with operands out of range is taken and turned to `InvalidArgument` before it touches anything. -/
theorem exec_of_invalid {i : Instr} {s t : State} (hinv : OperandsInvalid i) (h : exec i s = .next t) :
    t.todo = some (.complete .invalidArgument) ∧ t.phase ≠ .tornDown ∧ t.fault = false := by
  obtain ⟨hf, hp, -, ⟨r, g, b, rfl, rfl⟩ | ⟨hue, sat, val, rfl, rfl⟩ | ⟨hue, sat, val, rfl, rfl⟩⟩ := exec_next h
  · rw [encodeAndSend_of_invalid (s := accept (.setrgb r g b) s) hinv]
    exact ⟨rfl, by simp [hp], hf⟩
  · rw [convertThen_of_invalid (s := accept (.sethsv hue sat val) s) _ hinv]
    exact ⟨rfl, by simp, hf⟩
  · rw [convertThen_of_invalid (s := accept (.hsv2rgb hue sat val) s) _ hinv]
    exact ⟨rfl, by simp, hf⟩

/-- A completion before the peripheral was torn down leaves the LED as it was (60_exceptions.md R133). -/
theorem complete_eq_completed {s : State} (o : CmdOutcome) (hp : s.phase ≠ .tornDown) :
    complete o s = completed o s := by
  simp [complete, completed, record, ledAfterCommand, hp]

theorem step_of_invalid {i : Instr} {s t : State} (hr : s.host.resetReq = false) (hinv : OperandsInvalid i)
    (h : exec i s = .next t) : step t = .next (completed .invalidArgument t) := by
  obtain ⟨htodo, hp, hf⟩ := exec_of_invalid hinv h
  obtain ⟨hhost, -⟩ := exec_host_status_trace h
  rw [step_of_todo (hhost ▸ hr) hf htodo, ← complete_eq_completed .invalidArgument hp, advance]

/-- Settles O5: a decoded command is taken by a ready block, and one with operands out of range completes next. -/
theorem everyOtherWordIsAccepted : Obligations.EveryOtherWordIsAccepted := by
  rintro s w rest ⟨hready, hr⟩ hop
  have hwf := decode_wellFormed hop
  obtain ⟨t, ht⟩ := exec_of_ready (s := withCommands s rest) hwf hready
  refine ⟨hwf, t, (step_withCommands hr hready.2.2).trans ht, (exec_host_status_trace ht).2.2, fun hinv => ?_⟩
  have hinvalid : OperandsInvalid (decode w) := by
    revert hinv
    cases decode w <;> exact id
  exact step_of_invalid (s := withCommands s rest) hr hinvalid ht

end Sys2Proof.Machine
end

section
/-! PROOFS. The pulse sequence as the frame word shifted out (30_encoding.md R56, 41_encoder.md R85). -/

namespace Sys2Proof.Machine

/-- Position `k` of the frame carries green, red, blue in turn, most significant bit first. -/
theorem frameBit_eq (r g b : U32) {k : Nat} (hk : k < 24) : frameBit r g b k =
    if k < 8 then g.getLsbD (7 - k) else if k < 16 then r.getLsbD (7 - k % 8) else b.getLsbD (7 - k % 8) := by
  rw [frameBit, frameByte]
  rcases (by omega : k / 8 = 0 ∨ k / 8 = 1 ∨ k / 8 = 2) with hbyte | hbyte | hbyte
  · rw [if_pos hbyte, if_pos (by omega), Nat.mod_eq_of_lt (by omega)]
  · rw [if_neg (by omega), if_pos hbyte, if_neg (by omega), if_pos (by omega)]
  · rw [if_neg (by omega), if_neg (by omega), if_neg (by omega), if_neg (by omega)]

/-- Settles O40: the frame word and the loop carry the same bit at each position. -/
theorem sequenceIsTheFrameWordShiftedOut : Obligations.SequenceIsTheFrameWordShiftedOut := by
  intro r g b e k hk
  rw [frameWord_getLsbD r g b k hk]
  exact ⟨frameBit_eq r g b hk, serialise_seq r g b e k hk, serialise_w r g b e, serialise_i r g b e,
    serialise_pat0 r g b e, serialise_pat1 r g b e, serialise_freq r g b e, serialise_tickNs r g b e⟩

end Sys2Proof.Machine
end

section
/-! PROOFS. Lines of the assembler text (30_encoding.md R57). -/

namespace Sys2Proof.Machine

/-- Settles O56: each line is assembled by evaluation. -/
theorem assemblerLinesStandForTheirCommands : Obligations.AssemblerLinesStandForTheirCommands := by
  refine ⟨?_, ?_, ?_, ?_, ?_⟩ <;> decide +kernel

end Sys2Proof.Machine
end

section
/-! PROOFS. `SETHSV` as `HSV2RGB` followed by `SETRGB` of its results (30_encoding.md R58): the state of the `SETHSV` is
at every step the one `asSethsv` makes of the `SETRGB`'s. -/

open Sys2Proof.Claims

namespace Sys2Proof.Machine

/-! ### An outcome carried over -/

/-- The outcome of a step whose next state is looked at through `f`. -/
def mapNext (f : State → State) : StepOutcome → StepOutcome
  | .next t    => .next (f t)
  | .fault r   => .fault r
  | .refused r => .refused r

theorem mapNext_eq_next {f : State → State} {o : StepOutcome} {t : State} (h : mapNext f o = .next t) :
    ∃ w, o = .next w ∧ f w = t := by
  cases o with
  | next w =>
    cases h
    exact ⟨w, rfl, rfl⟩
  | fault r => cases h
  | refused r => cases h

/-! ### The end of a command that has come to its completion -/

/-- A command that only has to complete ends in its completion. -/
theorem commandEnds_of_completing {i : Instr} {s begun : State} {o : CmdOutcome} (hexec : exec i s = .next begun)
    (hr : begun.host.resetReq = false) (hf : begun.fault = false) (htodo : begun.todo = some (.complete o))
    (t : State) : CommandEnds i s t ↔ t = complete o begun := by
  have hstep : step begun = .next (complete o begun) := step_of_todo hr hf htodo
  have hbusy : begun.todo ≠ none := by simp [htodo]
  constructor
  · rintro ⟨⟨begun', n, hexec', hin, hrun⟩, hend⟩
    obtain rfl : begun = begun' := by simpa [hexec] using hexec'
    match n with
    | 0 =>
      cases hrun
      exact absurd hend hbusy
    | 1 =>
      rw [run_succ 0 hstep] at hrun
      cases hrun
      rfl
    | n + 2 => exact absurd rfl ((inProgress_succ hbusy hstep).mp hin 0 (by omega) _ rfl)
  · rintro rfl
    exact ⟨⟨begun, 1, hexec, (inProgress_succ hbusy hstep).mpr (inProgress_zero _), run_succ 0 hstep⟩, rfl⟩

/-! ### The state of the `SETHSV` made of that of the `SETRGB` -/

section
variable (s : State) (i : Instr) (past : Nat)

/-- While the `SETRGB` is in progress in `w`: the state of the command `i` taken in `s`, whose record has that of `s` and
the accept of `i` in place of the first `past` events. -/
def underSethsv (w : State) : State :=
  { w with
    phase := if w.phase = .idle then .converting else w.phase
    status := s.status
    operands := { w.operands with op := 1 }
    trace := s.trace ++ .accept i :: w.trace.drop past }

/-- The same up to the end of the command, where `PHASE` and `STATUS` are those of the `SETRGB`. -/
def asSethsv (w : State) : State :=
  { w with
    phase := if w.phase = .idle ∧ w.todo ≠ none then .converting else w.phase
    status := if w.todo = none then w.status else s.status
    operands := { w.operands with op := 1 }
    trace := s.trace ++ .accept i :: w.trace.drop past }

theorem asSethsv_of_inProgress {w : State} (h : w.todo ≠ none) : asSethsv s i past w = underSethsv s i past w := by
  simp [asSethsv, underSethsv, h]

theorem underSethsv_goOn (next : CommandStep) (w : State) :
    goOn next (underSethsv s i past w) = asSethsv s i past (goOn next w) := by
  rw [asSethsv_of_inProgress s i past (by simp)]
  rfl

/-! ### Each operation of the encoder, carried over -/

theorem underSethsv_onConfigure (a : Ack) (w : State) :
    onConfigure a (underSethsv s i past w) = asSethsv s i past (onConfigure a w) := by
  cases a with
  | ok => exact underSethsv_goOn s i past _ { w with periph := { w.periph with condition := .configured } }
  | err => exact underSethsv_goOn s i past _ w

theorem underSethsv_onInstall (a : Ack) (w : State) :
    onInstall a (underSethsv s i past w) = asSethsv s i past (onInstall a w) := by
  cases a with
  | ok =>
    exact underSethsv_goOn s i past _
      { w with phase := .encoding, periph := { w.periph with condition := .installed } }
  | err => exact underSethsv_goOn s i past _ w

theorem underSethsv_onFrequency (f : U32) (w : State) :
    onFrequency f (underSethsv s i past w) = asSethsv s i past (onFrequency f w) := by
  by_cases hf : f = 0
  · simp only [onFrequency, if_pos hf]
    exact underSethsv_goOn s i past _ { w with enc := { w.enc with freq := f } }
  · by_cases ht : tickDuration f = 0
    · simp only [onFrequency, if_neg hf, if_pos ht]
      exact underSethsv_goOn s i past _ { w with enc := { w.enc with freq := f, tickNs := tickDuration f } }
    · simp only [onFrequency, if_neg hf, if_neg ht]
      exact underSethsv_goOn s i past _
        { buildFrame { w with enc := { w.enc with freq := f, tickNs := tickDuration f } } with phase := .transmitting }

theorem underSethsv_onWrite (a : Ack) (w : State) :
    onWrite a (underSethsv s i past w) = asSethsv s i past (onWrite a w) := by
  cases a with
  | ok =>
    exact underSethsv_goOn s i past _
      { w with phase := .tornDown, periph := { w.periph with frame := some w.enc.seq } }
  | err => exact underSethsv_goOn s i past _ w

theorem underSethsv_onUninstall (a : Ack) (w : State) :
    onUninstall a (underSethsv s i past w) = asSethsv s i past (onUninstall a w) := by
  cases a with
  | ok => exact underSethsv_goOn s i past _ { w with periph := { w.periph with condition := .released } }
  | err => exact underSethsv_goOn s i past _ w

theorem underSethsv_encodeAndSend (w : State) :
    encodeAndSend (underSethsv s i past w) = asSethsv s i past (encodeAndSend w) := by
  have hsame : encodeAndSend (underSethsv s i past w) =
      if rgbRejected w.operands.r w.operands.g w.operands.b then raise .invalidArgument (underSethsv s i past w)
      else startConfigure (underSethsv s i past w) := rfl
  rcases encodeAndSend_cases w with ⟨hrej, heq⟩ | ⟨hacc, heq⟩
  · rw [hsame, heq, if_pos hrej]
    exact underSethsv_goOn s i past _ w
  · rw [hsame, heq, if_neg (by simp [hacc])]
    exact underSethsv_goOn s i past _ { w with phase := .configuring, led := .unknown }

/-! ### One step of the command, carried over -/

theorem underSethsv_trace {w : State} (hpast : past ≤ w.trace.length) (e : Event) :
    (underSethsv s i past w).trace ++ [e] = s.trace ++ .accept i :: (w.trace ++ [e]).drop past := by
  simp [underSethsv, List.drop_append_of_le_length hpast]

theorem underSethsv_record {w : State} (hpast : past ≤ w.trace.length) (e : Event) (periph : PeriphPort) :
    record e { underSethsv s i past w with periph := periph } =
      underSethsv s i past (record e { w with periph := periph }) :=
  congrArg (fun trace => { underSethsv s i past w with periph := periph, trace := trace })
    (underSethsv_trace s i past hpast e)

theorem underSethsv_ledAfterCommand (o : CmdOutcome) (w : State) :
    ledAfterCommand o (underSethsv s i past w) = ledAfterCommand o w := by
  have hphase : (underSethsv s i past w).phase = .tornDown ↔ w.phase = .tornDown := by
    by_cases hp : w.phase = .idle <;> simp [underSethsv, hp]
  simp only [ledAfterCommand, hphase]
  rfl

theorem underSethsv_complete {w : State} (hpast : past ≤ w.trace.length) (o : CmdOutcome) :
    complete o (underSethsv s i past w) = asSethsv s i past (complete o w) :=
  congrArg₂
    (fun led trace => { underSethsv s i past w with
      status := o.code, phase := .idle, todo := none, led := led, trace := trace })
    (underSethsv_ledAfterCommand s i past o w) (underSethsv_trace s i past hpast (.complete o))

theorem underSethsv_enterFault {w : State} (hpast : past ≤ w.trace.length) (e : CmdError) :
    enterFault e (underSethsv s i past w) = asSethsv s i past (enterFault e w) :=
  congrArg (fun trace => { enterFault e (underSethsv s i past w) with trace := trace })
    (underSethsv_trace s i past hpast (.fatal e))

theorem underSethsv_answerAck {w : State} (hpast : past ≤ w.trace.length) (op : PeriphOp) {next : Ack → State → State}
    (hnext : ∀ a u, next a (underSethsv s i past u) = asSethsv s i past (next a u)) :
    answerAck op next (underSethsv s i past w) = mapNext (asSethsv s i past) (answerAck op next w) := by
  cases hacks : w.periph.acks with
  | nil =>
    rw [answerAck_unanswered op next hacks]
    exact answerAck_unanswered op next (s := underSethsv s i past w) hacks
  | cons a rest =>
    rw [answerAck_answered op next hacks, mapNext, ← hnext, ← underSethsv_record s i past hpast]
    exact answerAck_answered op next (s := underSethsv s i past w) hacks

theorem underSethsv_answer {w : State} (hpast : past ≤ w.trace.length) (op : PeriphOp) :
    answer op (underSethsv s i past w) = mapNext (asSethsv s i past) (answer op w) := by
  cases op with
  | configure pin ch div lp => exact underSethsv_answerAck s i past hpast _ (underSethsv_onConfigure s i past)
  | install ch => exact underSethsv_answerAck s i past hpast _ (underSethsv_onInstall s i past)
  | getClockFrequency ch =>
    simp only [answer]
    cases hfreqs : w.periph.freqs with
    | nil =>
      rw [answerHz_unanswered _ _ hfreqs]
      exact answerHz_unanswered _ _ (s := underSethsv s i past w) hfreqs
    | cons f rest =>
      rw [answerHz_answered _ _ hfreqs, mapNext, ← underSethsv_onFrequency, ← underSethsv_record s i past hpast]
      exact answerHz_answered _ _ (s := underSethsv s i past w) hfreqs
  | write ch seq wait => exact underSethsv_answerAck s i past hpast _ (underSethsv_onWrite s i past)
  | uninstall ch => exact underSethsv_answerAck s i past hpast _ (underSethsv_onUninstall s i past)

theorem step_asSethsv {w : State} (hpast : past ≤ w.trace.length) (hr : w.host.resetReq = false)
    (htodo : w.todo ≠ none) : step (asSethsv s i past w) = mapNext (asSethsv s i past) (step w) := by
  cases hf : w.fault with
  | true =>
    rw [step_of_fault hr hf]
    exact step_of_fault (s := asSethsv s i past w) hr hf
  | false =>
    obtain ⟨next, hnext⟩ := Option.ne_none_iff_exists'.mp htodo
    rw [step_of_todo hr hf hnext, step_of_todo (s := asSethsv s i past w) hr hf hnext,
      asSethsv_of_inProgress s i past htodo]
    cases next with
    | ask op => exact underSethsv_answer s i past hpast op
    | complete o => exact congrArg Host.Outcome.next (underSethsv_complete s i past hpast o)
    | fatal e => exact congrArg Host.Outcome.next (underSethsv_enterFault s i past hpast e)

end

/-! ### The run of the command, carried over -/

/-- Every further step of a command is one event (42_peripheral_interface.md R100). -/
theorem advance_trace {next : CommandStep} {s t : State} (h : advance next s = .next t) :
    ∃ e, t.trace = s.trace ++ [e] := by
  rcases advance_next h with ⟨op, -, hans⟩ | ⟨o, -, rfl⟩ | ⟨e, -, rfl⟩
  · rcases answer_next hans with ⟨f, rest, -, -, rfl⟩ | ⟨a, rest, next, -, rfl, hnext⟩
    · exact ⟨_, (onFrequency_goesOn f _).trace⟩
    · rcases hnext with ⟨-, rfl⟩ | ⟨-, rfl⟩ | ⟨-, rfl⟩ | ⟨-, rfl⟩
      · exact ⟨_, (onConfigure_goesOn a _).trace⟩
      · exact ⟨_, (onInstall_goesOn a _).trace⟩
      · exact ⟨_, (onWrite_goesOn a _).trace⟩
      · exact ⟨_, (onUninstall_goesOn a _).trace⟩
  · exact ⟨_, rfl⟩
  · exact ⟨_, rfl⟩

/-- A command run from `w` runs alike from the state `asSethsv` makes of `w`. -/
theorem run_asSethsv (s : State) (i : Instr) {past n : Nat} {w : State} (hpast : past ≤ w.trace.length)
    (hr : w.host.resetReq = false) (hin : InProgress n w) :
    run n (asSethsv s i past w) = mapNext (asSethsv s i past) (run n w) := by
  induction n generalizing w with
  | zero => rfl
  | succ n ih =>
    have htodo : w.todo ≠ none := hin 0 (by omega) w rfl
    have hcarried := step_asSethsv s i past hpast hr htodo
    cases hstep : step w with
    | next x =>
      obtain ⟨next, -, hadv⟩ := step_of_inProgress hr htodo hstep
      obtain ⟨e, htrace⟩ := advance_trace hadv
      rw [hstep] at hcarried
      rw [run_succ n hstep, run_succ n hcarried]
      refine ih ?_ ?_ ((inProgress_succ htodo hstep).mp hin)
      · rw [htrace, List.length_append]
        omega
      · rw [(advance_frame hadv).1.host]
        exact hr
    | fault r => simp [run, hcarried, hstep, mapNext]
    | refused r => simp [run, hcarried, hstep, mapNext]

theorem inProgress_asSethsv (s : State) (i : Instr) {past n : Nat} {w : State} (hpast : past ≤ w.trace.length)
    (hr : w.host.resetReq = false) (hin : InProgress n w) : InProgress n (asSethsv s i past w) := by
  intro m hm t ht
  rw [run_asSethsv s i hpast hr fun k hk => hin k (by omega)] at ht
  obtain ⟨x, hx, rfl⟩ := mapNext_eq_next ht
  exact hin m hm x hx

/-! ### The two halves of the `SETHSV` -/

/-- The state in which an `HSV2RGB` that passed validation has only to complete. -/
def convertedByHsv2rgb (h : U32) (sat val : U64) (s : State) : State :=
  goOn (.complete .ok) (convert { accept (.hsv2rgb h sat val) s with phase := .converting })

/-- The state in which an HSV command that failed validation has only to complete. -/
def rejectedHsv (i : Instr) (s : State) : State := raise .invalidArgument { accept i s with phase := .converting }

/-- The end of an `HSV2RGB` is settled by its validation (40_normalizer.md R74). -/
theorem hsv2rgb_ends {h : U32} {sat val : U64} {s t : State} (hr : s.host.resetReq = false)
    (hends : CommandEnds (.hsv2rgb h sat val) s t) :
    Ready s ∧ ((HsvInvalid h sat val ∧ t = complete .invalidArgument (rejectedHsv (.hsv2rgb h sat val) s))
      ∨ (¬ HsvInvalid h sat val ∧ t = complete .ok (convertedByHsv2rgb h sat val s))) := by
  obtain ⟨begun, -, hexec, -⟩ := hends.1
  have hbegun := hexec
  rw [exec_hsv2rgb] at hbegun
  obtain ⟨hf, hp, ht, hbegun⟩ := whenReady_next hbegun
  refine ⟨⟨hf, hp, ht⟩, ?_⟩
  rcases convertThen_cases (goOn (.complete .ok)) (accept (.hsv2rgb h sat val) s) with ⟨hrej, heq⟩ | ⟨hacc, heq⟩ <;>
    rw [heq] at hbegun <;> subst hbegun
  · exact .inl ⟨(hsvRejected_eq_true_iff h sat val).mp hrej, (commandEnds_of_completing hexec hr hf rfl t).mp hends⟩
  · exact .inr ⟨(hsvRejected_eq_false_iff h sat val).mp hacc, (commandEnds_of_completing hexec hr hf rfl t).mp hends⟩

/-- A `SETHSV` with operands out of range ends as the `HSV2RGB` does. -/
theorem sethsv_ends_of_invalid {h : U32} {sat val : U64} {s : State} (hr : s.host.resetReq = false) (hready : Ready s)
    (hinv : HsvInvalid h sat val) : CommandEnds (.sethsv h sat val) s
      (complete .invalidArgument (rejectedHsv (.sethsv h sat val) s)) := by
  obtain ⟨hf, hp, ht⟩ := hready
  have hexec : exec (.sethsv h sat val) s = .next (rejectedHsv (.sethsv h sat val) s) := by
    rw [exec_sethsv, whenReady_of_ready _ hf hp ht, convertThen_of_invalid (s := accept (.sethsv h sat val) s) _ hinv,
      rejectedHsv]
  exact (commandEnds_of_completing hexec hr hf rfl _).mpr rfl

/-- The state in which the `SETRGB` of the results left in `t` was accepted. -/
def acceptResults (t : State) : State := accept (.setrgb t.results.rout t.results.gout t.results.bout) t

/-- What a `SETHSV` hands over to the encoder is that state, but for what `underSethsv` says (41_encoder.md R90). -/
theorem handOver_eq_underSethsv {h : U32} {sat val : U64} {s t : State} (ht : s.todo = none)
    (hconv : t = complete .ok (convertedByHsv2rgb h sat val s)) :
    handOver (convert { accept (.sethsv h sat val) s with phase := .converting }) =
      underSethsv s (.sethsv h sat val) (t.trace.length + 1) (acceptResults t) := by
  have htrace : (acceptResults t).trace.drop (t.trace.length + 1) = [] :=
    List.drop_of_length_le (by simp [acceptResults])
  rw [underSethsv, htrace]
  subst hconv
  simp [acceptResults, accept, record, handOver, convert, convertedByHsv2rgb, latchOperands, ledAfterCommand, ht]

/-- A `SETHSV` that passes HSV validation begins as the `SETRGB` of the converted channels does. -/
theorem exec_sethsv_of_valid {h : U32} {sat val : U64} {s t : State} (hready : Ready s)
    (hvalid : ¬ HsvInvalid h sat val)
    (hconv : t = complete .ok (convertedByHsv2rgb h sat val s)) : exec (.sethsv h sat val) s =
      .next (asSethsv s (.sethsv h sat val) (t.trace.length + 1) (encodeAndSend (acceptResults t))) := by
  obtain ⟨hf, hp, ht⟩ := hready
  rw [exec_sethsv, whenReady_of_ready _ hf hp ht, convertThen_of_valid (s := accept (.sethsv h sat val) s) _ hvalid,
    handOver_eq_underSethsv ht hconv, underSethsv_encodeAndSend]

/-- Settles O48: a rejected `SETHSV` completes as the `HSV2RGB` does, and one that goes on is carried over from the
`SETRGB` step for step. -/
theorem sethsvIsHsv2rgbThenSetrgb : Obligations.SethsvIsHsv2rgbThenSetrgb := by
  intro s t h sat val hr hends
  obtain ⟨hready, ⟨hinv, rfl⟩ | ⟨hvalid, hconv⟩⟩ := hsv2rgb_ends hr hends
  · refine ⟨fun _ => ?_, fun hok => absurd hok (by simp [CmdOutcome.code])⟩
    have hend := sethsv_ends_of_invalid hr hready hinv
    have htrace : (rejectedHsv (.sethsv h sat val) s).trace = s.trace ++ [.accept (.sethsv h sat val)] := rfl
    rwa [complete, record, htrace, List.append_assoc] at hend
  · refine ⟨fun hfail => absurd (by rw [hconv]; rfl) hfail, fun _ => ?_⟩
    have htaken : exec (.setrgb t.results.rout t.results.gout t.results.bout) t =
        .next (encodeAndSend (acceptResults t)) := by
      rw [exec_setrgb, hconv]
      exact whenReady_of_ready _ hready.1 rfl rfl
    have hgo := encodeAndSend_goesOn (acceptResults t)
    have hquiet : (encodeAndSend (acceptResults t)).host.resetReq = false := by
      rw [hgo.host, hconv]
      exact hr
    have hpast : t.trace.length + 1 ≤ (encodeAndSend (acceptResults t)).trace.length := by
      rw [hgo.trace]
      simp [acceptResults]
    refine ⟨_, _, htaken, exec_sethsv_of_valid hready hvalid hconv, fun n hin => ?_⟩
    have hrun := run_asSethsv s (.sethsv h sat val) hpast hquiet hin
    refine ⟨inProgress_asSethsv s _ hpast hquiet hin, fun w hw => ?_, fun r hfault => ?_⟩
    · rw [hrun, hw]
      rfl
    · rw [hrun, hfault, mapNext]

end Sys2Proof.Machine
end

section
/-! PROOFS. Rounding is to the nearest binary64 value, ties to the even significand (40_normalizer.md R64). -/

open Sys2Proof.Claims

namespace Sys2Proof.Machine

/-! ### The nearest whole number -/

theorem distance_eq (num den mag : Nat) : distance num den mag = (num - mag * den) + (mag * den - num) := by
  unfold distance
  rw [← Nat.cast_mul]
  omega

/-- No whole number is nearer to `n / d` than the rounded quotient. -/
theorem roundDivEven_nearest (n k : Nat) {d : Nat} (hd : 0 < d) :
    distance n d (roundDivEven n d) ≤ distance n d k := by
  obtain ⟨hlow, hhigh⟩ := roundDivEven_bounds n d hd
  rw [distance_eq, distance_eq]
  rcases Nat.lt_trichotomy k (roundDivEven n d) with hlt | rfl | hgt
  · have hstep : (k + 1) * d ≤ roundDivEven n d * d := Nat.mul_le_mul_right d hlt
    rw [Nat.add_mul] at hstep
    omega
  · exact le_rfl
  · have hstep : (roundDivEven n d + 1) * d ≤ k * d := Nat.mul_le_mul_right d hgt
    rw [Nat.add_mul] at hstep
    omega

/-- Where another whole number is as near, `n / d` lies half way between two and the rounded quotient is even. -/
theorem roundDivEven_even_of_tie {n d k : Nat} (hd : 0 < d) (hne : k ≠ roundDivEven n d)
    (htie : distance n d (roundDivEven n d) = distance n d k) : roundDivEven n d % 2 = 0 := by
  obtain ⟨hlow, hhigh⟩ := roundDivEven_bounds n d hd
  refine roundDivEven_tie_even n d ?_
  generalize roundDivEven n d = r at *
  rw [distance_eq, distance_eq] at htie
  rcases Nat.lt_or_gt_of_ne hne with hlt | hgt
  · obtain ⟨q, rfl⟩ : ∃ q, r = q + 1 := ⟨r - 1, by omega⟩
    have hstep : k * d ≤ q * d := Nat.mul_le_mul_right d (by omega)
    refine mod_eq_half_of_odd_multiple n d q ?_
    simp only [Nat.add_mul, Nat.mul_assoc] at *
    omega
  · have hstep : (r + 1) * d ≤ k * d := Nat.mul_le_mul_right d hgt
    refine mod_eq_half_of_odd_multiple n d r ?_
    simp only [Nat.add_mul, Nat.mul_assoc] at *
    omega

/-! ### The nearest binary64 magnitude -/

/-- At a positive exponent the significand keeps its leading bit. -/
theorem le_roundDivEven_significand {num den : Nat} (hden : 0 < den) (he : 0 < roundExponent num den) :
    2 ^ 52 ≤ roundDivEven num (den * 2 ^ roundExponent num den) := by
  have hle : 2 ^ (52 + roundExponent num den) * den ≤ num :=
    (Nat.le_div_iff_mul_le hden).1 (le_of_roundExponent_pos num den he)
  have hmono := roundDivEven_mono (2 ^ 52) 1 num (den * 2 ^ roundExponent num den) one_pos
    (Nat.mul_pos hden (by positivity)) (by rw [pow_add] at hle; linarith)
  rwa [roundDivEven_one] at hmono

/-- The last significand bit of a magnitude with a significand of 53 bits, or of fewer at exponent 0, is the
significand's own; `2 ^ 53` stands for the next power of two. -/
theorem last_significand_bit {r e : Nat} (hle : r ≤ 2 ^ 53) (hfull : e = 0 ∨ 2 ^ 52 ≤ r) (heven : r % 2 = 0) :
    r * 2 ^ e / 2 ^ ((r * 2 ^ e).log2 - 52) % 2 = 0 := by
  rcases hle.eq_or_lt with rfl | hlt
  · have hlog : (2 ^ 53 * 2 ^ e).log2 - 52 = e + 1 := by
      rw [← pow_add, Nat.log2_two_pow]
      omega
    rw [hlog, pow_succ' 2 e, Nat.mul_div_mul_right _ _ (by positivity)]
    norm_num
  · have hlog : (r * 2 ^ e).log2 - 52 = e := by
      rcases hfull with rfl | hge
      · rw [pow_zero, Nat.mul_one]
        rcases Nat.eq_zero_or_pos r with rfl | hpos
        · simp
        · have := (Nat.log2_lt (by omega : r ≠ 0)).2 hlt
          omega
      · have hpos : r * 2 ^ e ≠ 0 := by positivity
        have hlog : (r * 2 ^ e).log2 = 52 + e := by
          rw [Nat.log2_eq_iff hpos, show 52 + e + 1 = 53 + e by omega, pow_add, pow_add]
          exact ⟨Nat.mul_le_mul_right _ hge, Nat.mul_lt_mul_of_pos_right hlt (by positivity)⟩
        omega
    rw [hlog, Nat.mul_div_cancel _ (by positivity)]
    exact heven

/-- From the leading bit on, the binary64 magnitudes are multiples of the unit in the last place. -/
theorem RepresentableMag.multiple_of_le {mag e : Nat} (h : RepresentableMag mag) (hle : 2 ^ (52 + e) ≤ mag) :
    ∃ k, mag = k * 2 ^ e := by
  obtain ⟨-, m, f, hm, rfl⟩ := h
  have hlt : m * 2 ^ f < 2 ^ (53 + f) := by
    rw [pow_add]
    exact Nat.mul_lt_mul_of_pos_right hm (by positivity)
  have hef := (Nat.pow_lt_pow_iff_right (by norm_num : 1 < 2)).1 (hle.trans_lt hlt)
  exact ⟨m * 2 ^ (f - e), by rw [Nat.mul_assoc, ← pow_add, Nat.sub_add_cancel (by omega)]⟩

theorem distance_scale (num den k x : Nat) : distance num den (k * x) = distance num (den * x) k := by
  rw [distance_eq, distance_eq, Nat.mul_assoc, Nat.mul_comm x den]

/-- A binary64 magnitude below the leading bit of the quotient is farther from it than the multiple at that bit. -/
theorem distance_lt_of_below {num den other : Nat} (hden : 0 < den) (he : 0 < roundExponent num den)
    (hbelow : other < 2 ^ (52 + roundExponent num den)) :
    distance num den (2 ^ 52 * 2 ^ roundExponent num den) < distance num den other := by
  have hquot : 2 ^ (52 + roundExponent num den) * den ≤ num :=
    (Nat.le_div_iff_mul_le hden).1 (le_of_roundExponent_pos num den he)
  have hlt := Nat.mul_lt_mul_of_pos_right hbelow hden
  rw [distance_eq, distance_eq, ← pow_add]
  omega

/-- No binary64 magnitude is nearer than the rounded one, and at a tie its last significand bit is 0. -/
theorem roundMagnitude_nearest {num den other : Nat} (hden : 0 < den) (hother : RepresentableMag other)
    (hne : other ≠ roundMagnitude num den) :
    distance num den (roundMagnitude num den) ≤ distance num den other
      ∧ (distance num den (roundMagnitude num den) = distance num den other →
        roundMagnitude num den / 2 ^ ((roundMagnitude num den).log2 - 52) % 2 = 0) := by
  have hd : 0 < den * 2 ^ roundExponent num den := by positivity
  unfold roundMagnitude at *
  by_cases hmul : ∃ k, other = k * 2 ^ roundExponent num den
  · obtain ⟨k, rfl⟩ := hmul
    rw [distance_scale, distance_scale]
    refine ⟨roundDivEven_nearest num k hd, fun htie => ?_⟩
    refine last_significand_bit (roundDivEven_le_significand num den hden) ?_
      (roundDivEven_even_of_tie hd (fun hk => hne (by rw [hk])) htie)
    exact (Nat.eq_zero_or_pos _).imp_right (le_roundDivEven_significand hden)
  · have he : 0 < roundExponent num den := by
      by_contra h0
      exact hmul ⟨other, by rw [Nat.eq_zero_of_not_pos h0, pow_zero, Nat.mul_one]⟩
    have hbelow := distance_lt_of_below hden he (not_le.1 (mt hother.multiple_of_le hmul))
    have hnear := roundDivEven_nearest num (2 ^ 52) hd
    rw [← distance_scale, ← distance_scale] at hnear
    exact ⟨(hnear.trans_lt hbelow).le, fun htie => absurd htie (hnear.trans_lt hbelow).ne⟩

/-! ### Overflow -/

/-- Half way between the largest binary64 magnitude and `2 ^ 1024`, in units: the first to round up. -/
theorem roundMagnitude_overflow_threshold : f64Limit ≤ roundMagnitude (2 ^ 2098 - 2 ^ 2044) 1 := by decide +kernel

theorem f64Limit_eq : f64Limit = 2 ^ 53 * 2 ^ 2045 := by
  unfold f64Limit
  rw [← pow_add]

/-- Below that threshold the significand stays below `2 ^ 53` at the largest exponent. -/
theorem roundMagnitude_lt_limit {num den : Nat} (hden : 0 < den) (h : num < (2 ^ 2098 - 2 ^ 2044) * den) :
    roundMagnitude num den < f64Limit := by
  have hthreshold : (2 ^ 2098 - 2 ^ 2044 : Nat) = (2 ^ 54 - 1) * 2 ^ 2044 := by
    rw [Nat.sub_mul, ← pow_add, Nat.one_mul]
  have hsig := roundDivEven_le_significand num den hden
  unfold roundMagnitude
  rw [f64Limit_eq]
  rcases Nat.lt_trichotomy (roundExponent num den) 2045 with hlt | heq | hgt
  · refine (Nat.mul_le_mul_right _ hsig).trans_lt ?_
    exact Nat.mul_lt_mul_of_pos_left ((Nat.pow_lt_pow_iff_right one_lt_two).2 hlt) (by norm_num)
  · rw [heq]
    refine Nat.mul_lt_mul_of_pos_right ?_ (by positivity)
    have hhalf : den * 2 ^ 2045 = 2 * (2 ^ 2044 * den) := by rw [pow_succ]; ring
    have hbound := (roundDivEven_bounds num (den * 2 ^ 2045) (by positivity)).1
    by_contra hge
    have htop := Nat.mul_le_mul_right (den * 2 ^ 2045) (not_lt.1 hge)
    rw [hthreshold, Nat.mul_assoc] at h
    omega
  · have hquot : 2 ^ (52 + roundExponent num den) * den ≤ num :=
      (Nat.le_div_iff_mul_le hden).1 (le_of_roundExponent_pos num den (by omega))
    have hpow : 2 ^ 2098 - 2 ^ 2044 ≤ 2 ^ (52 + roundExponent num den) :=
      (Nat.sub_le _ _).trans (Nat.pow_le_pow_right (by norm_num) (by omega))
    exact absurd h (not_lt.2 ((Nat.mul_le_mul_right den hpow).trans hquot))

theorem limit_le_roundMagnitude {num den : Nat} (hden : 0 < den) (h : (2 ^ 2098 - 2 ^ 2044) * den ≤ num) :
    f64Limit ≤ roundMagnitude num den :=
  roundMagnitude_overflow_threshold.trans (roundMagnitude_mono _ 1 num den one_pos hden (by rwa [Nat.mul_one]))

theorem f64Round_of_lt {neg : Bool} {num den : Nat} (h : roundMagnitude num den < f64Limit) :
    f64Round neg num den = .fin neg (roundMagnitude num den) := if_pos h

theorem f64Round_of_le {neg : Bool} {num den : Nat} (h : f64Limit ≤ roundMagnitude num den) :
    f64Round neg num den = .inf neg := if_neg (not_lt.2 h)

/-- Settles O16: the significand is the nearest whole number at its exponent, and a magnitude that is no multiple at
that exponent is farther than the least one that is. -/
theorem roundingIsToNearestTiesToEven : Obligations.RoundingIsToNearestTiesToEven := by
  intro neg num den hden
  refine ⟨⟨fun hinf => ?_, fun h => f64Round_of_le (limit_le_roundMagnitude hden h)⟩, fun h => ?_⟩
  · by_contra hlt
    rw [f64Round_of_lt (roundMagnitude_lt_limit hden (not_le.1 hlt))] at hinf
    cases hinf
  · have hlim := roundMagnitude_lt_limit hden h
    exact ⟨_, f64Round_of_lt hlim, roundMagnitude_representable num den hden hlim,
      fun _ hother hne => roundMagnitude_nearest hden hother hne⟩

end Sys2Proof.Machine
end

section
/-! PROOFS. What each floating-point operation gives on each kind of datum (40_normalizer.md R62, R64). -/

open Sys2Proof.Claims

namespace Sys2Proof.Machine

theorem f64Unit_eq : f64Unit = 2 ^ 1074 := by
  unfold f64Unit
  rfl

/-! ### NaN operands -/

@[simp] theorem f64Add_nan_left (x : F64) : f64Add .nan x = .nan := by cases x <;> rfl
@[simp] theorem f64Add_nan_right (x : F64) : f64Add x .nan = .nan := by cases x <;> rfl
@[simp] theorem f64Sub_nan_left (x : F64) : f64Sub .nan x = .nan := f64Add_nan_left _
@[simp] theorem f64Sub_nan_right (x : F64) : f64Sub x .nan = .nan := f64Add_nan_right _
@[simp] theorem f64Mul_nan_left (x : F64) : f64Mul .nan x = .nan := by cases x <;> rfl
@[simp] theorem f64Mul_nan_right (x : F64) : f64Mul x .nan = .nan := by cases x <;> rfl
@[simp] theorem f64Div_nan_left (x : F64) : f64Div .nan x = .nan := by cases x <;> rfl
@[simp] theorem f64Div_nan_right (x : F64) : f64Div x .nan = .nan := by cases x <;> rfl
@[simp] theorem f64Fmod_nan_left (x : F64) : f64Fmod .nan x = .nan := by cases x <;> rfl
@[simp] theorem f64Fmod_nan_right (x : F64) : f64Fmod x .nan = .nan := by cases x <;> rfl

/-! ### Finite operands -/

theorem roundMagnitude_zero (den : Nat) : roundMagnitude 0 den = 0 := by simp [roundMagnitude, roundDivEven]

theorem f64Round_zero (neg : Bool) (den : Nat) : f64Round neg 0 den = .fin neg 0 := by
  have hlim : roundMagnitude 0 den < f64Limit := by
    rw [roundMagnitude_zero]
    exact representableMag_zero.1
  rw [f64Round_of_lt hlim, roundMagnitude_zero]

theorem f64Mul_fin (na nb : Bool) (a b : Nat) :
    f64Mul (.fin na a) (.fin nb b) = f64Round (na != nb) (a * b) f64Unit := rfl

theorem f64Div_fin (na nb : Bool) (a : Nat) {b : Nat} (hb : 0 < b) :
    f64Div (.fin na a) (.fin nb b) = f64Round (na != nb) (a * f64Unit) b := if_neg hb.ne'

theorem f64Fmod_fin (na nb : Bool) (a : Nat) {b : Nat} (hb : 0 < b) :
    f64Fmod (.fin na a) (.fin nb b) = .fin na (a % b) := if_neg hb.ne'

theorem f64Add_fin_of_zero {na nb : Bool} {a b : Nat} (h : signedUnits na a + signedUnits nb b = 0) :
    f64Add (.fin na a) (.fin nb b) = .fin (na && nb) 0 := if_pos h

theorem f64Add_fin_of_ne_zero {na nb : Bool} {a b : Nat} (h : signedUnits na a + signedUnits nb b ≠ 0) :
    f64Add (.fin na a) (.fin nb b) =
      f64Round (decide (signedUnits na a + signedUnits nb b < 0)) (signedUnits na a + signedUnits nb b).natAbs 1 :=
  if_neg h

theorem signedUnits_eq_zero (neg : Bool) (mag : Nat) : signedUnits neg mag = 0 ↔ mag = 0 := by
  cases neg <;> simp [signedUnits]

theorem signedUnits_natAbs (neg : Bool) (mag : Nat) : (signedUnits neg mag).natAbs = mag := by
  cases neg <;> simp [signedUnits]

theorem signedUnits_neg_iff (neg : Bool) {mag : Nat} (hpos : 0 < mag) : signedUnits neg mag < 0 ↔ neg = true := by
  cases neg <;> simp [signedUnits, hpos]

theorem signedUnits_add_like (neg : Bool) (a b : Nat) :
    signedUnits neg a + signedUnits neg b = signedUnits neg (a + b) := by
  cases neg
  · simp [signedUnits]
  · simp [signedUnits, Int.add_comm]

theorem signedUnits_add_opposite (neg : Bool) {a b : Nat} (h : b ≤ a) :
    signedUnits neg a + signedUnits (!neg) b = signedUnits neg (a - b) := by
  cases neg <;> simp [signedUnits] <;> omega

/-- A nonzero exact sum, given by its sign and its magnitude, is rounded once. -/
theorem f64Add_fin_eq_round {na nb neg : Bool} {a b mag : Nat} (hpos : 0 < mag)
    (h : signedUnits na a + signedUnits nb b = signedUnits neg mag) :
    f64Add (.fin na a) (.fin nb b) = f64Round neg mag 1 := by
  have hne : signedUnits na a + signedUnits nb b ≠ 0 := by
    rw [h, Ne, signedUnits_eq_zero]
    exact hpos.ne'
  rw [f64Add_fin_of_ne_zero hne, h, signedUnits_natAbs]
  simp only [signedUnits_neg_iff neg hpos, Bool.decide_eq_true]

theorem f64Add_comm (x y : F64) : f64Add x y = f64Add y x := by
  cases x <;> cases y
  case inf.inf na nb => cases na <;> cases nb <;> rfl
  case fin.fin na a nb b => simp only [f64Add, Int.add_comm (signedUnits na a), Bool.and_comm na]
  all_goals rfl

theorem f64Mul_comm (x y : F64) : f64Mul x y = f64Mul y x := by
  cases x <;> cases y
  case inf.inf na nb => exact congrArg F64.inf bne_comm
  case inf.fin na nb b => simp only [f64Mul, bne_comm (a := na)]
  case fin.inf na a nb => simp only [f64Mul, bne_comm (a := na)]
  case fin.fin na a nb b => rw [f64Mul_fin, f64Mul_fin, Nat.mul_comm, bne_comm]
  all_goals rfl

/-- Operands of like sign: the magnitudes are added. -/
theorem f64Add_like_signs (neg : Bool) {a b : Nat} (h : 0 < a + b) :
    f64Add (.fin neg a) (.fin neg b) = f64Round neg (a + b) 1 :=
  f64Add_fin_eq_round h (signedUnits_add_like neg a b)

/-- Operands of opposite sign: the greater magnitude gives the sign, less the other. -/
theorem f64Add_opposite_signs (neg : Bool) {a b : Nat} (h : b < a) :
    f64Add (.fin neg a) (.fin (!neg) b) = f64Round neg (a - b) 1 :=
  f64Add_fin_eq_round (Nat.sub_pos_of_lt h) (signedUnits_add_opposite neg h.le)

theorem f64Sub_self (neg : Bool) (a : Nat) : f64Sub (.fin neg a) (.fin neg a) = .fin false 0 := by
  have hzero : signedUnits neg a + signedUnits (!neg) a = 0 := by
    rw [signedUnits_add_opposite neg le_rfl, signedUnits_eq_zero, Nat.sub_self]
  exact (f64Add_fin_of_zero hzero).trans (by simp)

/-- Settles O17: each result is a special value or is rounded, and the remainder of magnitudes is exact. -/
theorem floatOperationsGiveBinary64Data : Obligations.FloatOperationsGiveBinary64Data := by
  intro a b ha hb
  refine ⟨f64Add_representable a b, f64Sub_representable a b, f64Mul_representable a b, f64Div_representable a b,
    f64Fmod_representable ha hb, f64Abs_representable ha, ?_⟩
  rintro na ma nb mb rfl rfl hpos
  exact ⟨ma % mb, f64Fmod_fin na nb ma hpos, Nat.mod_lt ma hpos, ma / mb, (Nat.div_add_mod' ma mb).symm⟩

/-- Settles O18, by the laws of the operations above. -/
theorem specialValuesOfTheFloatOperations : Obligations.SpecialValuesOfTheFloatOperations := by
  refine ⟨fun x => by simp [f64Abs], fun na nb => ?_, fun na nb a b => ?_, fun na nb a b => ?_⟩
  · exact ⟨rfl, rfl, by cases na <;> rfl, rfl⟩
  · refine ⟨f64Sub_self na a, ?_, ?_, rfl⟩
    · rw [f64Mul_fin, Nat.zero_mul, f64Round_zero]
    · rw [f64Mul_fin, Nat.mul_zero, f64Round_zero, bne_comm]
  · rw [← f64Unit_eq]
    have hsub (x : F64) (neg : Bool) (mag : Nat) : f64Sub x (.fin (!neg) mag) = f64Add x (.fin neg mag) := by
      rw [f64Sub, f64Neg, Bool.not_not]
    refine ⟨f64Mul_fin na nb a b, f64Div_fin na nb a, fun h => ?_, fun h => ?_⟩
    · rw [hsub]
      exact ⟨f64Add_like_signs na h, f64Add_like_signs na h⟩
    · rw [f64Add_comm (.fin (!na) b), hsub, f64Add_comm (.fin (!na) b)]
      have hopposite := f64Add_opposite_signs na h
      exact ⟨hopposite, hopposite, hopposite, hopposite⟩

end Sys2Proof.Machine
end

section
/-! PROOFS. The value of a datum: the quiet comparison sees nothing else (40_normalizer.md R62), and neither do the
sum, the difference, the product and the conversion to a channel (R71, R72, R78). -/

open Sys2Proof.Claims

namespace Sys2Proof.Machine

theorem minusZero_eq : f64OfBits 0x8000000000000000 = .fin true 0 := by decide +kernel

theorem plusZero_eq : f64OfBits 0 = .fin false 0 := by decide +kernel

theorem units_fin (neg : Bool) (mag : Nat) :
    units (.fin neg mag) = some (((signedUnits neg mag : Int) : WithTop Int) : WithBot (WithTop Int)) := rfl

theorem units_zero (neg : Bool) : units (.fin neg 0) = some ((0 : WithTop Int) : WithBot (WithTop Int)) := by
  cases neg <;> rfl

/-! ### The comparison -/

/-- `f64_gt` compares the values, and there is none for a NaN. -/
theorem f64Gt_iff (a b : F64) : f64Gt a b = true ↔ ∃ x y, units a = some x ∧ units b = some y ∧ y < x := by
  cases a with
  | nan => simp [f64Gt, units]
  | inf na =>
    cases b with
    | nan => cases na <;> simp [f64Gt, units]
    | inf nb => cases na <;> cases nb <;> simp [f64Gt, units]
    | fin nb b => cases na <;> simp [f64Gt, units, lt_top_iff_ne_top]
  | fin na a =>
    cases b with
    | nan => simp [f64Gt, units]
    | inf nb => cases nb <;> simp [f64Gt, units]
    | fin nb b => simp [f64Gt, units_fin]

theorem f64Gt_congr {a a' b b' : F64} (ha : units a = units a') (hb : units b = units b') :
    f64Gt a b = f64Gt a' b' := by
  rw [Bool.eq_iff_iff, f64Gt_iff, f64Gt_iff, ha, hb]

/-- Settles O19: the comparison is that of the values, in which the two zeros are one. -/
theorem greaterThanIsTheQuietComparison : Obligations.GreaterThanIsTheQuietComparison := by
  have hzeros : units (f64OfBits 0x8000000000000000) = units (f64OfBits 0) := by
    rw [minusZero_eq, plusZero_eq, units_zero, units_zero]
  refine ⟨f64Gt_iff, fun b => f64Gt_congr hzeros rfl, fun a => f64Gt_congr rfl hzeros, fun mag => ?_, ?_⟩
  · have hle : signedUnits true mag ≤ signedUnits false (1 * f64Unit) := by
      simp only [signedUnits, if_true, Bool.false_eq_true, if_false]
      omega
    rw [one_eq_f64OfNat]
    exact decide_eq_false (not_lt.2 hle)
  · rw [one_eq_f64OfNat]
    exact ⟨rfl, rfl, rfl⟩

/-! ### The conversion to a channel -/

theorem integerMagnitude_trunc_iff (mag n : Nat) :
    integerMagnitude .trunc mag = n ↔ n * f64Unit ≤ mag ∧ mag < (n + 1) * f64Unit := by
  rw [integerMagnitude, Nat.div_eq_iff f64Unit_pos, Nat.add_mul]
  have := f64Unit_pos
  omega

theorem integerMagnitude_nearest_iff (mag n : Nat) : integerMagnitude .nearest mag = n ↔
    2 * (n * f64Unit) ≤ 2 * mag + f64Unit ∧ 2 * mag < 2 * (n * f64Unit) + f64Unit := by
  have hpos := f64Unit_pos
  have hcomm : n * (2 * f64Unit) = 2 * (n * f64Unit) := by ring
  rw [integerMagnitude, Nat.div_eq_iff (by omega), hcomm]
  omega

theorem integerMagnitude_mono (mode : Rounding) {mag mag' : Nat} (h : mag ≤ mag') :
    integerMagnitude mode mag ≤ integerMagnitude mode mag' := by
  cases mode
  case trunc => exact Nat.div_le_div_right h
  case nearest => exact Nat.div_le_div_right (by omega)

/-- A whole number is its own channel, whatever the rounding setting. -/
theorem integerMagnitude_whole (mode : Rounding) (n : Nat) : integerMagnitude mode (n * f64Unit) = n := by
  have hpos := f64Unit_pos
  cases mode
  case trunc =>
    rw [integerMagnitude_trunc_iff, Nat.add_mul]
    omega
  case nearest =>
    rw [integerMagnitude_nearest_iff]
    omega

theorem f2u_fin_eq_some_iff (mode : Rounding) (neg : Bool) (mag : Nat) (c : U32) :
    f2u mode (.fin neg mag) = some c ↔ integerMagnitude mode mag = c.toNat ∧ (neg = true → c = 0) := by
  have hc : c = 0 ↔ c.toNat = 0 := by rw [← BitVec.toNat_inj]; rfl
  have hlt := c.isLt
  simp only [f2u, Option.ite_none_right_eq_some, Option.some.injEq, ← BitVec.toNat_inj, BitVec.toNat_ofNat, hc]
  constructor
  · rintro ⟨⟨hfits, hsign⟩, heq⟩
    rw [Nat.mod_eq_of_lt hfits] at heq
    refine ⟨heq, fun hneg => ?_⟩
    by_contra hne
    exact hsign ⟨hneg, by omega⟩
  · rintro ⟨heq, hsign⟩
    rw [heq]
    refine ⟨⟨hlt, fun ⟨hneg, hpos⟩ => ?_⟩, Nat.mod_eq_of_lt hlt⟩
    exact hpos.ne' (hsign hneg)

theorem f2u_fin_eq_none_iff (mode : Rounding) (neg : Bool) (mag : Nat) : f2u mode (.fin neg mag) = none ↔
    (neg = true ∧ 1 ≤ integerMagnitude mode mag) ∨ (neg = false ∧ 2 ^ 32 ≤ integerMagnitude mode mag) := by
  simp only [f2u, ite_eq_right_iff, reduceCtorEq, imp_false]
  cases neg
  · simp
  · simp
    omega

/-- Settles O20: a 32-bit integer is a whole number of units below the limit. -/
theorem integerToFloatIsExact : Obligations.IntegerToFloatIsExact := by
  intro n
  refine ⟨f64OfNat_representable n.toNat (n.isLt.trans (by norm_num)), by rw [← f64Unit_eq]; rfl, fun mode => ?_⟩
  exact (f2u_fin_eq_some_iff mode false _ n).2 ⟨integerMagnitude_whole mode n.toNat, by simp⟩

/-- Settles O21: the quotients of R71 as inequalities. -/
theorem channelConversionRoundsAsSet : Obligations.ChannelConversionRoundsAsSet := by
  intro neg mag c
  rw [← f64Unit_eq, f2u_fin_eq_some_iff, f2u_fin_eq_some_iff, integerMagnitude_trunc_iff,
    integerMagnitude_nearest_iff]
  exact ⟨and_assoc, and_assoc⟩

theorem le_integerMagnitude_trunc_iff (n mag : Nat) : n ≤ integerMagnitude .trunc mag ↔ n * f64Unit ≤ mag :=
  Nat.le_div_iff_mul_le f64Unit_pos

theorem le_integerMagnitude_nearest_iff (n mag : Nat) :
    n ≤ integerMagnitude .nearest mag ↔ 2 * (n * f64Unit) ≤ 2 * mag + f64Unit := by
  have hcomm : n * (2 * f64Unit) = 2 * (n * f64Unit) := by ring
  rw [integerMagnitude, Nat.le_div_iff_mul_le (Nat.mul_pos two_pos f64Unit_pos), hcomm]

/-- Settles O22: the integer is negative or does not fit from these bounds on. -/
theorem undefinedConversionIsADraw : Obligations.UndefinedConversionIsADraw := by
  refine ⟨fun mode => ⟨rfl, fun neg => rfl⟩, fun neg mag => ?_, fun neg mag => ?_, fun mode p n => rfl⟩
  · rw [← f64Unit_eq, f2u_fin_eq_none_iff, le_integerMagnitude_trunc_iff, le_integerMagnitude_trunc_iff, Nat.one_mul]
    norm_num
  · have hhalf : 2 * (1 * f64Unit) ≤ 2 * mag + f64Unit ↔ f64Unit ≤ 2 * mag := by omega
    have hbound : 2 * (2 ^ 32 * f64Unit) ≤ 2 * mag + f64Unit ↔ 8589934591 * f64Unit ≤ 2 * mag := by omega
    rw [← f64Unit_eq, f2u_fin_eq_none_iff, le_integerMagnitude_nearest_iff, le_integerMagnitude_nearest_iff, hhalf,
      hbound]

/-! ### Data of the same value -/

theorem f2u_zero (mode : Rounding) (neg : Bool) : f2u mode (.fin neg 0) = some 0 := by
  refine (f2u_fin_eq_some_iff mode neg 0 0).2 ⟨?_, fun _ => rfl⟩
  simpa using integerMagnitude_whole mode 0

theorem units_injective_fin {na nb : Bool} {a b : Nat} (h : units (.fin na a) = units (.fin nb b)) :
    F64.fin na a = .fin nb b ∨ (a = 0 ∧ b = 0) := by
  simp only [units_fin, Option.some.injEq, WithBot.coe_inj, WithTop.coe_inj] at h
  have hmag := congrArg Int.natAbs h
  rw [signedUnits_natAbs, signedUnits_natAbs] at hmag
  subst hmag
  rcases Nat.eq_zero_or_pos a with hzero | hpos
  · exact .inr ⟨hzero, hzero⟩
  · refine .inl (congrArg (F64.fin · a) ?_)
    rw [Bool.eq_iff_iff, ← signedUnits_neg_iff na hpos, ← signedUnits_neg_iff nb hpos, h]

/-- Two data of the same value are the same, or both are zeros. -/
theorem eq_or_zeros_of_units {a b : F64} (h : units a = units b) :
    a = b ∨ ∃ na nb, a = .fin na 0 ∧ b = .fin nb 0 := by
  cases a with
  | nan =>
    cases b with
    | nan => exact .inl rfl
    | inf nb => cases nb <;> cases h
    | fin nb b => cases h
  | inf na =>
    cases b with
    | nan => cases na <;> cases h
    | inf nb => cases na <;> cases nb <;> simp [units] at h ⊢
    | fin nb b => cases na <;> cases h
  | fin na a =>
    cases b with
    | nan => cases h
    | inf nb => cases nb <;> cases h
    | fin nb b =>
      rcases units_injective_fin h with heq | ⟨rfl, rfl⟩
      · exact .inl heq
      · exact .inr ⟨na, nb, rfl, rfl⟩

theorem f2u_congr (mode : Rounding) {a b : F64} (h : units a = units b) : f2u mode a = f2u mode b := by
  rcases eq_or_zeros_of_units h with rfl | ⟨na, nb, rfl, rfl⟩
  · rfl
  · rw [f2u_zero, f2u_zero]

theorem units_f64Neg_congr {a b : F64} (h : units a = units b) : units (f64Neg a) = units (f64Neg b) := by
  rcases eq_or_zeros_of_units h with rfl | ⟨na, nb, rfl, rfl⟩
  · rfl
  · simp only [f64Neg, units_zero]

/-- The sign of a zero does not change the value of a sum: an exact zero sum is a zero. -/
theorem units_f64Add_zero (na nb : Bool) (b : F64) : units (f64Add (.fin na 0) b) = units (f64Add (.fin nb 0) b) := by
  cases b with
  | nan => rfl
  | inf neg => rfl
  | fin neg mag =>
    have hsum (s : Bool) : signedUnits s 0 + signedUnits neg mag = signedUnits neg mag := by
      rw [(signedUnits_eq_zero s 0).2 rfl, Int.zero_add]
    rcases Nat.eq_zero_or_pos mag with rfl | hpos
    · have hzero (s : Bool) : signedUnits s 0 + signedUnits neg 0 = 0 := by rw [hsum, signedUnits_eq_zero]
      rw [f64Add_fin_of_zero (hzero na), f64Add_fin_of_zero (hzero nb), units_zero, units_zero]
    · rw [f64Add_fin_eq_round hpos (hsum na), f64Add_fin_eq_round hpos (hsum nb)]

theorem units_f64Mul_zero (na nb : Bool) (b : F64) : units (f64Mul (.fin na 0) b) = units (f64Mul (.fin nb 0) b) := by
  cases b with
  | nan => rfl
  | inf neg => rfl
  | fin neg mag => rw [f64Mul_fin, f64Mul_fin, Nat.zero_mul, f64Round_zero, f64Round_zero, units_zero, units_zero]

/-- An operation that commutes and does not show the sign of a zero gives the same value on data of the same values. -/
theorem units_congr₂ {op : F64 → F64 → F64} (hcomm : ∀ x y, op x y = op y x)
    (hzero : ∀ na nb b, units (op (.fin na 0) b) = units (op (.fin nb 0) b)) {a a' b b' : F64}
    (ha : units a = units a') (hb : units b = units b') : units (op a b) = units (op a' b') := by
  have hleft {x x' : F64} (y : F64) (h : units x = units x') : units (op x y) = units (op x' y) := by
    rcases eq_or_zeros_of_units h with rfl | ⟨na, nb, rfl, rfl⟩
    · rfl
    · exact hzero na nb y
  calc units (op a b) = units (op a' b) := hleft b ha
    _ = units (op b a') := by rw [hcomm]
    _ = units (op b' a') := hleft a' hb
    _ = units (op a' b') := by rw [hcomm]

theorem units_f64Add_congr {a a' b b' : F64} (ha : units a = units a') (hb : units b = units b') :
    units (f64Add a b) = units (f64Add a' b') := units_congr₂ f64Add_comm units_f64Add_zero ha hb

theorem units_f64Sub_congr {a a' b b' : F64} (ha : units a = units a') (hb : units b = units b') :
    units (f64Sub a b) = units (f64Sub a' b') := units_f64Add_congr ha (units_f64Neg_congr hb)

theorem units_f64Mul_congr {a a' b b' : F64} (ha : units a = units a') (hb : units b = units b') :
    units (f64Mul a b) = units (f64Mul a' b') := units_congr₂ f64Mul_comm units_f64Mul_zero ha hb

theorem units_beforeConversion_congr {ch ch' m m' : F64} (hch : units ch = units ch') (hm : units m = units m') :
    units (beforeConversion ch m) = units (beforeConversion ch' m') :=
  units_f64Mul_congr (units_f64Add_congr hch hm) rfl

end Sys2Proof.Machine
end

section
/-! PROOFS. The courses of `HSV2RGB` and of the conversion half of `SETHSV`, whole state by whole state
(40_normalizer.md R61, R65 to R74, 41_encoder.md R90). -/

open Sys2Proof.Claims

namespace Sys2Proof.Machine

/-! ### The conversion, as the rules write it -/

theorem two_eq_f64OfNat : two = f64OfNat 2 := by decide +kernel

theorem sixty_eq_f64OfNat : sixty = f64OfNat 60 := by decide +kernel

theorem maxChannel_eq_f64OfNat : maxChannel = f64OfNat 255 := by decide +kernel

theorem plusZero_eq_f64OfNat : plusZero = f64OfNat 0 := by decide +kernel

/-- The sector table row by row is the table column by column (R69). -/
theorem sectorRow_eq (h : U32) (c x : F64) : sectorRow h c x =
    (if h < 60 then c else if h < 120 then x else if h < 240 then plusZero else if h < 300 then x else c,
      if h < 60 then x else if h < 180 then c else if h < 240 then x else plusZero,
      if h < 120 then plusZero else if h < 180 then x else if h < 300 then c else x) := by
  rw [plusZero_eq_f64OfNat]
  fun_cases sectorRow h c x
  all_goals
    simp only [sectorWidth] at *
    simp (disch := omega) only [BitVec.lt_def, BitVec.reduceToNat, if_pos, if_neg]
    rfl

theorem normalize_eq_workingRegs (h : U32) (sat val : U64) :
    normalize h (f64OfBits sat) (f64OfBits val) = workingRegs h sat val := by
  simp only [normalize, sectorRow_eq, workingRegs, one_eq_f64OfNat, two_eq_f64OfNat, sixty_eq_f64OfNat]

theorem channelValue_eq_channelOrDraw (mode : Rounding) (p : F64) (draws : Nat) :
    channelValue mode p draws = channelOrDraw mode p draws := rfl

theorem channelValues_eq_convertedChannels (mode : Rounding) (n : NormRegs) (draws : Nat) :
    channelValues mode n draws = convertedChannels mode n draws := by
  simp only [channelValues, convertedChannels, channelValue_eq_channelOrDraw, preConversion, beforeConversion,
    maxChannel_eq_f64OfNat]

/-! ### The states of the two commands -/

theorem convert_eq_converted (h : U32) (sat val : U64) (s : State) :
    convertedByHsv2rgb h sat val s = converted s h sat val := by
  simp only [convertedByHsv2rgb, converted, convert, accept, goOn, record, latchOperands, normalize_eq_workingRegs,
    channelValues_eq_convertedChannels]

theorem rejectedHsv_eq_hsvTurnedAway {s : State} {i : Instr} {op : BitVec 2} {h : U32} {sat val : U64}
    (hlatch : latchOperands i s.operands = { s.operands with op := op, h := h, s := sat, v := val }) :
    rejectedHsv i s = hsvTurnedAway s op i h sat val := by
  simp only [rejectedHsv, hsvTurnedAway, raise, accept, goOn, record, hlatch]

/-- What a valid `SETHSV` hands to the encoder (41_encoder.md R90). -/
theorem handOver_eq_handedOver (h : U32) (sat val : U64) (s : State) :
    handOver (convert { accept (.sethsv h sat val) s with phase := .converting }) = handedOver s h sat val := by
  simp only [handOver, handedOver, convert, accept, record, latchOperands, normalize_eq_workingRegs,
    channelValues_eq_convertedChannels]

section
variable {s : State} {h : U32} {sat val : U64}

theorem exec_hsv2rgb_of_valid (hready : Ready s) (hvalid : ¬ HsvInvalid h sat val) :
    exec (.hsv2rgb h sat val) s = .next (converted s h sat val) := by
  obtain ⟨hf, hp, ht⟩ := hready
  rw [exec_hsv2rgb, whenReady_of_ready _ hf hp ht, convertThen_of_valid (s := accept (.hsv2rgb h sat val) s) _ hvalid,
    ← convert_eq_converted, convertedByHsv2rgb]

theorem exec_hsv2rgb_of_invalid (hready : Ready s) (hinv : HsvInvalid h sat val) :
    exec (.hsv2rgb h sat val) s = .next (hsvTurnedAway s 2 (.hsv2rgb h sat val) h sat val) := by
  obtain ⟨hf, hp, ht⟩ := hready
  rw [exec_hsv2rgb, whenReady_of_ready _ hf hp ht, convertThen_of_invalid (s := accept (.hsv2rgb h sat val) s) _ hinv,
    ← rejectedHsv_eq_hsvTurnedAway rfl, rejectedHsv]

theorem exec_sethsv_of_invalid (hready : Ready s) (hinv : HsvInvalid h sat val) :
    exec (.sethsv h sat val) s = .next (hsvTurnedAway s 1 (.sethsv h sat val) h sat val) := by
  obtain ⟨hf, hp, ht⟩ := hready
  rw [exec_sethsv, whenReady_of_ready _ hf hp ht, convertThen_of_invalid (s := accept (.sethsv h sat val) s) _ hinv,
    ← rejectedHsv_eq_hsvTurnedAway rfl, rejectedHsv]

/-- A `SETHSV` that passes HSV validation goes on with the validation of its converted channels. -/
theorem exec_sethsv_of_handedOver (hready : Ready s) (hvalid : ¬ HsvInvalid h sat val) :
    exec (.sethsv h sat val) s = .next (encodeAndSend (handedOver s h sat val)) := by
  obtain ⟨hf, hp, ht⟩ := hready
  rw [exec_sethsv, whenReady_of_ready _ hf hp ht, convertThen_of_valid (s := accept (.sethsv h sat val) s) _ hvalid,
    handOver_eq_handedOver]

/-- With channels up to 255 it goes on to `configure` (41_encoder.md R81, R82). -/
theorem exec_sethsv_of_validRgb (hready : Ready s) (hvalid : ¬ HsvInvalid h sat val)
    (hrgb : ¬ RgbInvalid (handedOver s h sat val).operands.r (handedOver s h sat val).operands.g
      (handedOver s h sat val).operands.b) :
    exec (.sethsv h sat val) s = .next (configuring (handedOver s h sat val)) := by
  have hacc := mt (rgbRejected_eq_true_iff _ _ _).mp hrgb
  rw [exec_sethsv_of_handedOver hready hvalid, encodeAndSend, if_neg hacc]
  rfl

/-- The completion of a turned away command changes `STATUS`, `PHASE` and the record only (R61). -/
theorem step_hsvTurnedAway (hu : Undisturbed s) (op : BitVec 2) (i : Instr) :
    step (hsvTurnedAway s op i h sat val) = .next { s with
      status := 1, operands := { s.operands with op := op, h := h, s := sat, v := val }
      trace := s.trace ++ [.accept i, .complete .invalidArgument] } := by
  obtain ⟨⟨hf, hp, ht⟩, hr⟩ := hu
  rw [step_of_todo (s := hsvTurnedAway s op i h sat val) hr hf rfl, advance,
    complete_eq_completed _ (by simp [hsvTurnedAway])]
  simp [completed, hsvTurnedAway, CmdOutcome.code, ← hp, ← ht]

/-- The completion of a conversion changes `STATUS`, `PHASE` and the record only (R74). -/
theorem step_converted (hu : Undisturbed s) :
    step (converted s h sat val) = .next { s with
      status := 0
      operands := { s.operands with op := 2, h := h, s := sat, v := val }
      norm := workingRegs h sat val
      results := (convertedChannels s.channelRounding (workingRegs h sat val) s.draws).1
      draws := (convertedChannels s.channelRounding (workingRegs h sat val) s.draws).2
      trace := s.trace ++ [.accept (.hsv2rgb h sat val), .complete .ok] } := by
  obtain ⟨⟨hf, hp, ht⟩, hr⟩ := hu
  rw [step_of_todo (s := converted s h sat val) hr hf rfl, advance, complete_eq_completed _ (by simp [converted])]
  simp [completed, converted, CmdOutcome.code, ← hp, ← ht]

/-- A conversion ends with `OK`; its channels are those of R70 under the run's rounding setting. -/
theorem hsv2rgb_completes (hu : Undisturbed s) (hvalid : ¬ HsvInvalid h sat val) :
    ∃ t, CommandEnds (.hsv2rgb h sat val) s t ∧ t.status = 0 ∧
      (t.results, t.draws) = convertedChannels s.channelRounding (workingRegs h sat val) s.draws := by
  have hexec := exec_hsv2rgb_of_valid hu.1 hvalid
  exact ⟨_, (commandEnds_of_completing hexec hu.2 hu.1.1 rfl _).mpr rfl, rfl, rfl⟩

end

/-- Settles O23: the two validations agree with R61's condition, and a rejected command only completes. -/
theorem hsvValidation : Obligations.HsvValidation := by
  intro s h sat val hu
  refine ⟨fun hinv => ⟨⟨exec_hsv2rgb_of_invalid hu.1 hinv, step_hsvTurnedAway hu _ _⟩,
    exec_sethsv_of_invalid hu.1 hinv, step_hsvTurnedAway hu _ _⟩, fun hvalid => ?_, ?_, ?_, ?_, ?_⟩
  · obtain ⟨t, hends, hstatus, -⟩ := hsv2rgb_completes hu hvalid
    exact ⟨t, hends, hstatus⟩
  · exact .inl (by decide)
  · exact .inr (.inl (by decide +kernel))
  · exact .inr (.inr (by decide +kernel))
  · unfold HsvInvalid
    decide +kernel

/-- Settles O24, state by state. -/
theorem hsv2rgbConverts : Obligations.Hsv2rgbConverts :=
  fun _ _ _ _ hu hvalid => ⟨exec_hsv2rgb_of_valid hu.1 hvalid, step_converted hu⟩

/-! ### The three channels -/

/-- What the three conversions of R70 give; `none` where R72 makes the channel a draw. -/
def channelImages (mode : Rounding) (n : NormRegs) : Option U32 × Option U32 × Option U32 :=
  (f2u mode (beforeConversion n.rp n.m), f2u mode (beforeConversion n.gp n.m), f2u mode (beforeConversion n.bp n.m))

/-- A channel, or the next draw, and the draws made after it. -/
def imageOrDraw (image : Option U32) (draws : Nat) : U32 × Nat :=
  match image with
  | some c => (c, draws)
  | none   => (Config.drawU32 draws, draws + 1)

/-- The three channels in the order of R70, each with the draws the channels before it have left. -/
def imagesOrDraws (images : Option U32 × Option U32 × Option U32) (draws : Nat) : ResultRegs × Nat :=
  let r := imageOrDraw images.1 draws
  let g := imageOrDraw images.2.1 r.2
  let b := imageOrDraw images.2.2 g.2
  ({ rout := r.1, gout := g.1, bout := b.1 }, b.2)

/-- The channels and the draws depend on the three images only. -/
theorem convertedChannels_eq (mode : Rounding) (n : NormRegs) (draws : Nat) :
    convertedChannels mode n draws = imagesOrDraws (channelImages mode n) draws := rfl

theorem hsv2rgb_results_and_draws_of_images {s : State} {h : U32} {sat val : U64} (hu : Undisturbed s)
    (hvalid : ¬ HsvInvalid h sat val) {images : Option U32 × Option U32 × Option U32}
    (himages : channelImages s.channelRounding (workingRegs h sat val) = images) :
    ∃ t, CommandEnds (.hsv2rgb h sat val) s t ∧ t.status = 0
      ∧ t.results = (imagesOrDraws images s.draws).1 ∧ t.draws = (imagesOrDraws images s.draws).2 := by
  obtain ⟨t, hends, hstatus, hout⟩ := hsv2rgb_completes hu hvalid
  rw [convertedChannels_eq, himages] at hout
  exact ⟨t, hends, hstatus, congrArg Prod.fst hout, congrArg Prod.snd hout⟩

theorem hsv2rgb_results_of_images {s : State} {h : U32} {sat val : U64} (hu : Undisturbed s)
    (hvalid : ¬ HsvInvalid h sat val) {images : Option U32 × Option U32 × Option U32}
    (himages : channelImages s.channelRounding (workingRegs h sat val) = images) :
    ∃ t, CommandEnds (.hsv2rgb h sat val) s t ∧ t.status = 0 ∧ t.results = (imagesOrDraws images s.draws).1 := by
  obtain ⟨t, hends, hstatus, hresults, -⟩ := hsv2rgb_results_and_draws_of_images hu hvalid himages
  exact ⟨t, hends, hstatus, hresults⟩

/-- A `SETHSV` whose channels are defined and in range goes on to `configure` with them. -/
theorem exec_sethsv_of_images {s : State} {h : U32} {sat val : U64} {r g b : U32} (hready : Ready s)
    (hvalid : ¬ HsvInvalid h sat val) (hrgb : ¬ RgbInvalid r g b)
    (himages : channelImages s.channelRounding (workingRegs h sat val) = (some r, some g, some b)) :
    exec (.sethsv h sat val) s = .next (configuring (handedOver s h sat val))
      ∧ (handedOver s h sat val).operands.r = r ∧ (handedOver s h sat val).operands.g = g
      ∧ (handedOver s h sat val).operands.b = b := by
  have hout : convertedChannels s.channelRounding (workingRegs h sat val) s.draws =
      ({ rout := r, gout := g, bout := b }, s.draws) := by
    rw [convertedChannels_eq, himages]
    rfl
  have hr : (handedOver s h sat val).operands.r = r := congrArg (fun out => out.1.rout) hout
  have hg : (handedOver s h sat val).operands.g = g := congrArg (fun out => out.1.gout) hout
  have hb : (handedOver s h sat val).operands.b = b := congrArg (fun out => out.1.bout) hout
  exact ⟨exec_sethsv_of_validRgb hready hvalid (by rwa [hr, hg, hb]), hr, hg, hb⟩

/-! ### `CHANNEL_ROUNDING` -/

theorem exec_channelRounding {i : Instr} {s t : State} (h : exec i s = .next t) :
    t.channelRounding = s.channelRounding := by
  obtain ⟨-, -, -, ⟨r, g, b, -, rfl⟩ | ⟨hue, sat, val, -, rfl⟩ | ⟨hue, sat, val, -, rfl⟩⟩ := exec_next h
  · exact (encodeAndSend_goesOn _).channelRounding
  · rcases convertThen_cases (fun s => encodeAndSend (handOver s)) (accept i s) with ⟨-, heq⟩ | ⟨-, heq⟩ <;> rw [heq]
    · rfl
    · exact (encodeAndSend_goesOn _).channelRounding
  · rcases convertThen_cases (goOn (.complete .ok)) (accept i s) with ⟨-, heq⟩ | ⟨-, heq⟩ <;> rw [heq] <;> rfl

theorem step_channelRounding {s t : State} (h : step s = .next t) : t.channelRounding = s.channelRounding := by
  rcases step_next h with ⟨-, rfl⟩ | ⟨-, -, ⟨next, -, hadv⟩ | ⟨-, -, rfl⟩ | ⟨w, rest, -, -, hexec⟩⟩
  · rfl
  · exact (advance_frame hadv).1.channelRounding
  · rfl
  · exact (exec_channelRounding hexec).trans rfl

/-- The integer that R71's example `127.5` goes to. -/
def halfImage : Rounding → U32
  | .trunc   => 127
  | .nearest => 128

theorem channelImages_half_grey (mode : Rounding) : channelImages mode (workingRegs 0 0 0x3FE0000000000000) =
    (some (halfImage mode), some (halfImage mode), some (halfImage mode)) := by
  cases mode <;> decide +kernel

theorem channelImages_half_green (mode : Rounding) :
    channelImages mode (workingRegs 120 0x3FF0000000000000 0x3FE0000000000000) =
      (some 0, some (halfImage mode), some 0) := by
  cases mode <;> decide +kernel

theorem halfImage_valid (mode : Rounding) : ¬ RgbInvalid 0 (halfImage mode) 0 := by
  unfold RgbInvalid
  cases mode <;> decide

/-- Settles O32: no step writes the setting, and both conversions read it (V27, V48). -/
theorem channelRoundingIsAConfigurationValue : Obligations.ChannelRoundingIsAConfigurationValue := by
  refine ⟨fun s t => step_channelRounding, ?_⟩
  rintro s mode hu rfl
  have hgrey : ¬ HsvInvalid 0 0 0x3FE0000000000000 := by
    unfold HsvInvalid
    decide +kernel
  have hgreen : ¬ HsvInvalid 120 0x3FF0000000000000 0x3FE0000000000000 := by
    unfold HsvInvalid
    decide +kernel
  obtain ⟨hexec, hr, hg, hb⟩ := exec_sethsv_of_images hu.1 hgreen (halfImage_valid _) (channelImages_half_green _)
  exact ⟨hsv2rgb_results_of_images hu hgrey (channelImages_half_grey _), _, hexec, rfl, hr, hg, hb⟩

end Sys2Proof.Machine
end

section
/-! PROOFS. The working registers of a conversion: operands of the same value give the same channels, so the sign of a
zero does not show (40_normalizer.md R66 to R70, R78). -/

open Sys2Proof.Claims

namespace Sys2Proof.Machine

/-! ### The working registers, one by one -/

section
variable (h : U32) (sat val : U64)

theorem workingRegs_c : (workingRegs h sat val).c = f64Mul (f64OfBits sat) (f64OfBits val) := by
  simp only [workingRegs]

theorem workingRegs_hq : (workingRegs h sat val).hq = f64Div (u32ToF64 h) sixty := by simp only [workingRegs]

theorem workingRegs_hm : (workingRegs h sat val).hm = f64Fmod (workingRegs h sat val).hq two := by
  simp only [workingRegs]

theorem workingRegs_t : (workingRegs h sat val).t = f64Abs (f64Sub (workingRegs h sat val).hm one) := by
  simp only [workingRegs]

theorem workingRegs_k : (workingRegs h sat val).k = f64Sub one (workingRegs h sat val).t := by simp only [workingRegs]

theorem workingRegs_x : (workingRegs h sat val).x = f64Mul (workingRegs h sat val).c (workingRegs h sat val).k := by
  simp only [workingRegs]

theorem workingRegs_m : (workingRegs h sat val).m = f64Sub (f64OfBits val) (workingRegs h sat val).c := by
  simp only [workingRegs]

/-- `RP`, `GP`, `BP` are the hue's row of the sector table. -/
theorem workingRegs_row : ((workingRegs h sat val).rp, (workingRegs h sat val).gp, (workingRegs h sat val).bp) =
    sectorRow h (workingRegs h sat val).c (workingRegs h sat val).x := (sectorRow_eq h _ _).symm

/-- `HQ`, `HM` and `K` depend on the hue alone (R66). -/
theorem workingRegs_hue (sat' val' : U64) : (workingRegs h sat val).hq = (workingRegs h sat' val').hq
    ∧ (workingRegs h sat val).hm = (workingRegs h sat' val').hm
    ∧ (workingRegs h sat val).k = (workingRegs h sat' val').k := by
  simp only [workingRegs, and_self]

end

/-! ### Registers of the same value -/

theorem channelImages_of_same (mode : Rounding) {n n' : NormRegs} (h : SameBeforeConversion n n') :
    channelImages mode n = channelImages mode n' := by
  obtain ⟨hr, hg, hb⟩ := h
  simp only [channelImages, f2u_congr mode hr, f2u_congr mode hg, f2u_congr mode hb]

/-- A row of the sector table shows the values of `C` and `X` only. -/
theorem sectorRow_units_congr (h : U32) {c c' x x' : F64} (hc : units c = units c') (hx : units x = units x') :
    units (sectorRow h c x).1 = units (sectorRow h c' x').1
      ∧ units (sectorRow h c x).2.1 = units (sectorRow h c' x').2.1
      ∧ units (sectorRow h c x).2.2 = units (sectorRow h c' x').2.2 := by
  simp only [sectorRow]
  split_ifs <;> simp only [hc, hx, and_self]

/-- Operands of the same value give values before conversion that are the same. -/
theorem workingRegs_same (h : U32) {sat sat' val val' : U64}
    (hsat : units (f64OfBits sat) = units (f64OfBits sat')) (hval : units (f64OfBits val) = units (f64OfBits val')) :
    SameBeforeConversion (workingRegs h sat val) (workingRegs h sat' val') := by
  have hc : units (workingRegs h sat val).c = units (workingRegs h sat' val').c := units_f64Mul_congr hsat hval
  have hx : units (workingRegs h sat val).x = units (workingRegs h sat' val').x := units_f64Mul_congr hc rfl
  have hm : units (workingRegs h sat val).m = units (workingRegs h sat' val').m := units_f64Sub_congr hval hc
  obtain ⟨hr, hg, hb⟩ := sectorRow_units_congr h hc hx
  rw [← workingRegs_row, ← workingRegs_row] at hr hg hb
  exact ⟨units_beforeConversion_congr hr hm, units_beforeConversion_congr hg hm, units_beforeConversion_congr hb hm⟩

theorem hsvInvalid_congr (h : U32) {sat sat' val val' : U64} (hsat : units (f64OfBits sat) = units (f64OfBits sat'))
    (hval : units (f64OfBits val) = units (f64OfBits val')) : HsvInvalid h sat val ↔ HsvInvalid h sat' val' := by
  unfold HsvInvalid
  rw [f64Gt_congr hsat rfl, f64Gt_congr hval rfl]

theorem f64InUnit_congr {a b : F64} (h : units a = units b) : f64InUnit a = f64InUnit b := by
  rcases eq_or_zeros_of_units h with rfl | ⟨na, nb, rfl, rfl⟩
  · rfl
  · simp [f64InUnit]

theorem hsvInContract_congr (h : U32) {sat sat' val val' : U64}
    (hsat : units (f64OfBits sat) = units (f64OfBits sat')) (hval : units (f64OfBits val) = units (f64OfBits val')) :
    hsvInContract h sat val = hsvInContract h sat' val' := by
  unfold hsvInContract
  rw [f64InUnit_congr hsat, f64InUnit_congr hval]

/-- Operands of the same value give, from one state, the same channels, draws included. -/
theorem hsv2rgb_same_results {s : State} {h : U32} {sat sat' val val' : U64} (hu : Undisturbed s)
    (hsat : units (f64OfBits sat) = units (f64OfBits sat')) (hval : units (f64OfBits val) = units (f64OfBits val'))
    (hvalid : ¬ HsvInvalid h sat' val') :
    ∃ t t', CommandEnds (.hsv2rgb h sat val) s t ∧ CommandEnds (.hsv2rgb h sat' val') s t' ∧ t.status = 0
      ∧ t'.status = 0 ∧ t.results = t'.results := by
  have himages := channelImages_of_same s.channelRounding (workingRegs_same h hsat hval)
  obtain ⟨t, hends, hstatus, hresults⟩ :=
    hsv2rgb_results_of_images hu (mt (hsvInvalid_congr h hsat hval).mp hvalid) himages
  obtain ⟨t', hends', hstatus', hresults'⟩ := hsv2rgb_results_of_images hu hvalid rfl
  exact ⟨t, t', hends, hends', hstatus, hstatus', hresults.trans hresults'.symm⟩

/-! ### The hue's factor `K` -/

theorem one_eq : one = .fin false f64Unit := by rw [one_eq_f64OfNat, f64OfNat, Nat.one_mul]

/-- A quotient up to a binary64 magnitude rounds to a finite one up to it. -/
theorem f64Round_bounded (neg : Bool) {num den bound : Nat} (hden : 0 < den) (hbound : RepresentableMag bound)
    (hle : num ≤ bound * den) :
    f64Round neg num den = .fin neg (roundMagnitude num den) ∧ roundMagnitude num den ≤ bound := by
  have hround : roundMagnitude num den ≤ bound := by
    rw [← roundMagnitude_of_representable bound hbound]
    exact roundMagnitude_mono num den bound 1 hden one_pos (by rwa [Nat.mul_one])
  exact ⟨f64Round_of_lt (hround.trans_lt hbound.1), hround⟩

theorem representableMag_unit : RepresentableMag f64Unit := by
  simpa [f64OfNat, Representable] using f64OfNat_representable 1 (by norm_num)

theorem f64Add_nonneg (a b : Nat) : f64Add (.fin false a) (.fin false b) = f64Round false (a + b) 1 := by
  rcases Nat.eq_zero_or_pos (a + b) with hzero | hpos
  · obtain ⟨rfl, rfl⟩ : a = 0 ∧ b = 0 := by omega
    rw [f64Round_zero]
    rfl
  · exact f64Add_like_signs false hpos

theorem f64Sub_nonneg {a b : Nat} (h : b ≤ a) : f64Sub (.fin false a) (.fin false b) = f64Round false (a - b) 1 := by
  rcases h.eq_or_lt with rfl | hlt
  · rw [f64Sub_self, Nat.sub_self, f64Round_zero]
  · exact f64Add_opposite_signs false hlt

theorem f64Sub_negative {a b : Nat} (h : a < b) : f64Sub (.fin false a) (.fin false b) = f64Round true (b - a) 1 :=
  (f64Add_comm _ _).trans (f64Add_opposite_signs true h)

/-- `HQ` is finite and not negative (R66). -/
theorem workingRegs_hq_finite (h : U32) (sat val : U64) : ∃ q, (workingRegs h sat val).hq = .fin false q := by
  have hbound : RepresentableMag (2 ^ 32 * f64Unit) := f64OfNat_representable (2 ^ 32) (by norm_num)
  have hpos : 0 < 60 * f64Unit := Nat.mul_pos (by norm_num) f64Unit_pos
  have hle : h.toNat * f64Unit * f64Unit ≤ 2 ^ 32 * f64Unit * (60 * f64Unit) := by
    gcongr
    · exact h.isLt.le
    · omega
  rw [workingRegs_hq, sixty_eq_f64OfNat]
  exact ⟨_, (f64Div_fin false false _ hpos).trans (f64Round_bounded false hpos hbound hle).1⟩

/-- `|HM - 1|` is at most 1, for `HM` is below 2 (R75). -/
theorem f64Abs_f64Sub_one {r : Nat} (hr : r ≤ 2 * f64Unit) :
    ∃ t ≤ f64Unit, f64Abs (f64Sub (.fin false r) one) = .fin false t := by
  rw [one_eq]
  rcases Nat.lt_or_ge r f64Unit with hlt | hge
  · obtain ⟨hround, hle⟩ := f64Round_bounded true one_pos representableMag_unit (num := f64Unit - r) (by omega)
    exact ⟨_, hle, by rw [f64Sub_negative hlt, hround]; rfl⟩
  · obtain ⟨hround, hle⟩ := f64Round_bounded false one_pos representableMag_unit (num := r - f64Unit) (by omega)
    exact ⟨_, hle, by rw [f64Sub_nonneg hge, hround]; rfl⟩

/-- `K` is in [0, 1], with the sign of `+0.0` (R75). -/
theorem workingRegs_k_unit (h : U32) (sat val : U64) : ∃ k ≤ f64Unit, (workingRegs h sat val).k = .fin false k := by
  obtain ⟨q, hq⟩ := workingRegs_hq_finite h sat val
  have hpos : 0 < 2 * f64Unit := Nat.mul_pos two_pos f64Unit_pos
  have hm : (workingRegs h sat val).hm = .fin false (q % (2 * f64Unit)) := by
    rw [workingRegs_hm, hq, two_eq_f64OfNat]
    exact f64Fmod_fin false false q hpos
  obtain ⟨t, ht, habs⟩ := f64Abs_f64Sub_one (Nat.mod_lt q hpos).le
  obtain ⟨hround, hle⟩ := f64Round_bounded false one_pos representableMag_unit (num := f64Unit - t) (by omega)
  refine ⟨_, hle, ?_⟩
  rw [workingRegs_k, workingRegs_t, hm, habs, one_eq, f64Sub_nonneg ht, hround]

/-- Settles O30: the two zeros have one value, and validation and conversion show values only. -/
theorem signOfZeroDoesNotShow : Obligations.SignOfZeroDoesNotShow := by
  have hzeros : units (f64OfBits 0x8000000000000000) = units (f64OfBits 0) := by
    rw [minusZero_eq, plusZero_eq, units_zero, units_zero]
  refine ⟨fun s h x hu => ⟨hsvInvalid_congr h hzeros rfl, hsvInvalid_congr h rfl hzeros,
    hsvInContract_congr h hzeros rfl, hsvInContract_congr h rfl hzeros,
    fun hvalid => ⟨workingRegs_same h hzeros rfl, hsv2rgb_same_results hu hzeros rfl hvalid⟩,
    fun hvalid => ⟨workingRegs_same h rfl hzeros, hsv2rgb_same_results hu rfl hzeros hvalid⟩⟩,
    fun mode => by rw [minusZero_eq, f2u_zero], fun h _ => ?_⟩
  have hc : (workingRegs h 0x8000000000000000 0x3FE0000000000000).c = .fin true 0 := by
    rw [workingRegs_c]
    decide +kernel
  refine ⟨hc, ?_, ?_⟩
  · obtain ⟨k, -, hk⟩ := workingRegs_k_unit h 0x8000000000000000 0x3FE0000000000000
    rw [workingRegs_x, hc, hk, f64Mul_fin, Nat.zero_mul, f64Round_zero]
    rfl
  · rw [workingRegs_m, hc]
    decide +kernel

end Sys2Proof.Machine
end

section
/-! PROOFS. Hue 360 against hue 0, for operands in contract or not (40_normalizer.md R72, R74, R76). -/

open Sys2Proof.Claims

namespace Sys2Proof.Machine

/-! ### Data that are not finite -/

/-- A NaN or an infinity. -/
def NotFinite : F64 → Prop
  | .fin _ _ => False
  | _        => True

theorem notFinite_f64Neg {x : F64} (h : NotFinite x) : NotFinite (f64Neg x) := by
  cases x <;> exact h

theorem notFinite_f64Add {y : F64} (x : F64) (h : NotFinite y) : NotFinite (f64Add x y) := by
  fun_cases f64Add x y
  case case7 => exact h
  case case8 => exact h.elim
  all_goals trivial

theorem notFinite_f64Mul {x : F64} (h : NotFinite x) (y : F64) : NotFinite (f64Mul x y) := by
  fun_cases f64Mul x y
  case case8 => exact h.elim
  all_goals trivial

theorem f2u_of_notFinite (mode : Rounding) {x : F64} (h : NotFinite x) : f2u mode x = none := by
  cases x with
  | nan => rfl
  | inf neg => rfl
  | fin neg mag => exact h.elim

/-- Where `M` is not finite all three channels are draws (R72). -/
theorem channelImages_of_notFinite (mode : Rounding) {n : NormRegs} (h : NotFinite n.m) :
    channelImages mode n = (none, none, none) := by
  have himage (ch : F64) : f2u mode (beforeConversion ch n.m) = none :=
    f2u_of_notFinite mode (notFinite_f64Mul (notFinite_f64Add ch h) maxChannel)
  simp only [channelImages, himage]

/-! ### Hue 360 -/

theorem f64OfNat_zero : f64OfNat 0 = .fin false 0 := by rw [f64OfNat, Nat.zero_mul]

/-- The images of a row of the sector table with the offset `M`. -/
def rowImages (mode : Rounding) (m : F64) (row : F64 × F64 × F64) : Option U32 × Option U32 × Option U32 :=
  (f2u mode (beforeConversion row.1 m), f2u mode (beforeConversion row.2.1 m), f2u mode (beforeConversion row.2.2 m))

theorem channelImages_eq_rowImages (mode : Rounding) (h : U32) (sat val : U64) :
    channelImages mode (workingRegs h sat val) = rowImages mode (workingRegs h sat val).m
      (sectorRow h (workingRegs h sat val).c (workingRegs h sat val).x) := by
  rw [← workingRegs_row]
  rfl

/-- At hue 0 and at hue 360 `K` is `+0.0`. -/
theorem workingRegs_k_of_end {h : U32} (hend : h = 0 ∨ h = 360) (sat val : U64) :
    (workingRegs h sat val).k = .fin false 0 := by
  obtain ⟨-, -, hk⟩ := workingRegs_hue h sat val 0 0
  rw [hk]
  rcases hend with rfl | rfl <;> decide +kernel

/-- A finite `C` times a zero `K` has the value of `+0.0`. -/
theorem units_x_of_k_zero {h : U32} {sat val : U64} {neg neg' : Bool} {c : Nat}
    (hc : (workingRegs h sat val).c = .fin neg c) (hk : (workingRegs h sat val).k = .fin neg' 0) :
    units (workingRegs h sat val).x = units (f64OfNat 0) := by
  rw [workingRegs_x, hc, hk, f64Mul_fin, Nat.mul_zero, f64Round_zero, f64OfNat_zero, units_zero, units_zero]

/-- Hue 360 gives the channels of hue 0: `X` is a zero where `C` is finite, and where it is not `M` is not either. -/
theorem channelImages_hue360 (mode : Rounding) (sat val : U64) :
    channelImages mode (workingRegs 360 sat val) = channelImages mode (workingRegs 0 sat val) := by
  have hnotFinite (h : U32) (hc : NotFinite (f64Mul (f64OfBits sat) (f64OfBits val))) :
      channelImages mode (workingRegs h sat val) = (none, none, none) := by
    refine channelImages_of_notFinite mode ?_
    rw [workingRegs_m, workingRegs_c]
    exact notFinite_f64Add _ (notFinite_f64Neg hc)
  cases hc : f64Mul (f64OfBits sat) (f64OfBits val) with
  | nan => rw [hnotFinite 360 (hc ▸ trivial), hnotFinite 0 (hc ▸ trivial)]
  | inf neg => rw [hnotFinite 360 (hc ▸ trivial), hnotFinite 0 (hc ▸ trivial)]
  | fin neg c =>
    have hcreg (h : U32) : (workingRegs h sat val).c = .fin neg c := (workingRegs_c h sat val).trans hc
    have hm : (workingRegs 360 sat val).m = (workingRegs 0 sat val).m := by
      rw [workingRegs_m, workingRegs_m, hcreg, hcreg]
    have hrow360 (x : F64) : sectorRow 360 (.fin neg c) x = (.fin neg c, f64OfNat 0, x) := rfl
    have hrow0 (x : F64) : sectorRow 0 (.fin neg c) x = (.fin neg c, x, f64OfNat 0) := rfl
    rw [channelImages_eq_rowImages, channelImages_eq_rowImages, hm, hcreg, hcreg, hrow360, hrow0]
    have himage {h : U32} (hend : h = 0 ∨ h = 360) (m : F64) :
        f2u mode (beforeConversion (workingRegs h sat val).x m) = f2u mode (beforeConversion (f64OfNat 0) m) :=
      f2u_congr mode (units_beforeConversion_congr
        (units_x_of_k_zero (hcreg h) (workingRegs_k_of_end hend sat val)) rfl)
    simp only [rowImages, himage (.inl rfl), himage (.inr rfl)]

/-- Settles O28: both commands pass or fail validation together, and the channels agree. -/
theorem hue360GivesWhatHue0Gives : Obligations.Hue360GivesWhatHue0Gives := by
  intro s t t' sat val hr hends hends'
  have hiff : HsvInvalid 360 sat val ↔ HsvInvalid 0 sat val := by simp [HsvInvalid]
  obtain ⟨-, ⟨hinv, rfl⟩ | ⟨hvalid, rfl⟩⟩ := hsv2rgb_ends hr hends
  · obtain ⟨-, ⟨-, rfl⟩ | ⟨hvalid', -⟩⟩ := hsv2rgb_ends hr hends'
    · exact ⟨rfl, rfl, rfl⟩
    · exact absurd (hiff.mpr hinv) hvalid'
  · obtain ⟨-, ⟨hinv', -⟩ | ⟨-, rfl⟩⟩ := hsv2rgb_ends hr hends'
    · exact absurd (hiff.mp hinv') hvalid
    · have hout : convertedChannels s.channelRounding (workingRegs 360 sat val) s.draws =
          convertedChannels s.channelRounding (workingRegs 0 sat val) s.draws := by
        rw [convertedChannels_eq, convertedChannels_eq, channelImages_hue360]
      rw [convert_eq_converted, convert_eq_converted]
      exact ⟨congrArg Prod.fst hout, rfl, congrArg Prod.snd hout⟩

end Sys2Proof.Machine
end

section
/-! PROOFS. Operands in contract: the values of the working registers, the range of the channels (40_normalizer.md R75),
and what follows for greys, for black and at the sector boundaries (R74, R76). -/

open Sys2Proof.Claims

namespace Sys2Proof.Machine

/-! ### Values that are not negative -/

theorem fin_of_units {a : F64} {n : Nat} (h : units a = units (.fin false n)) :
    ∃ neg, a = .fin neg n ∧ (neg = true → n = 0) := by
  rcases eq_or_zeros_of_units h with rfl | ⟨na, nb, rfl, hzero⟩
  · exact ⟨false, rfl, nofun⟩
  · cases hzero
    exact ⟨na, rfl, fun _ => rfl⟩

/-- An operand in [0.0, 1.0] has the value of a binary64 magnitude up to one. -/
theorem unit_value {b : U64} (h : f64InUnit (f64OfBits b) = true) :
    ∃ n ≤ f64Unit, RepresentableMag n ∧ units (f64OfBits b) = units (.fin false n) := by
  have hrep := f64OfBits_representable b
  cases hb : f64OfBits b with
  | nan => simp [hb, f64InUnit] at h
  | inf neg => simp [hb, f64InUnit] at h
  | fin neg mag =>
    simp only [hb, f64InUnit, Bool.and_eq_true, Bool.or_eq_true, decide_eq_true_eq] at h
    rw [hb] at hrep
    obtain ⟨hsign, hle⟩ := h
    refine ⟨mag, hle, hrep, ?_⟩
    rcases hsign with hneg | rfl
    · obtain rfl : neg = false := by simpa using hneg
      rfl
    · rw [units_zero, units_zero]

/-- Rounding sees the value of the quotient only. -/
theorem roundMagnitude_congr {num den num' den' : Nat} (hden : 0 < den) (hden' : 0 < den')
    (h : num * den' = num' * den) : roundMagnitude num den = roundMagnitude num' den' :=
  Nat.le_antisymm (roundMagnitude_mono _ _ _ _ hden hden' h.le) (roundMagnitude_mono _ _ _ _ hden' hden h.ge)

theorem f64Round_of_representable (neg : Bool) {mag : Nat} (h : RepresentableMag mag) :
    f64Round neg mag 1 = .fin neg mag := by
  have hround := roundMagnitude_of_representable mag h
  rw [f64Round_of_lt (hround.trans_lt h.1), hround]

theorem f64Mul_one {a : F64} (h : Representable a) : f64Mul a one = a := by
  rw [one_eq]
  cases a with
  | nan => rfl
  | inf neg => simp [f64Mul, f64Unit_pos.ne']
  | fin neg mag =>
    have hround : roundMagnitude (mag * f64Unit) f64Unit = mag :=
      (roundMagnitude_congr f64Unit_pos one_pos (Nat.mul_one _)).trans (roundMagnitude_of_representable mag h)
    rw [f64Mul_fin, Bool.bne_false, f64Round_of_lt (hround.trans_lt h.1), hround]

/-! ### The registers of a conversion in contract -/

/-- `C` in units: the product of the operands rounded (R65). -/
def chroma (s v : Nat) : Nat := roundMagnitude (s * v) f64Unit

/-- `M` in units: the difference rounded (R67). -/
def offset (s v : Nat) : Nat := roundMagnitude (v - chroma s v) 1

/-- The operands have the values `s` and `v`, in [0, 1]. -/
structure UnitOperands (sat val : U64) (s v : Nat) : Prop where
  sat : units (f64OfBits sat) = units (.fin false s)
  val : units (f64OfBits val) = units (.fin false v)
  sat_le : s ≤ f64Unit
  val_le : v ≤ f64Unit
  representable : RepresentableMag v

theorem unitOperands_of_inContract {h : U32} {sat val : U64} (hc : hsvInContract h sat val = true) :
    ∃ s v, UnitOperands sat val s v := by
  simp only [hsvInContract, Bool.and_eq_true] at hc
  obtain ⟨⟨-, hs⟩, hv⟩ := hc
  obtain ⟨s, hsle, -, hsat⟩ := unit_value hs
  obtain ⟨v, hvle, hrep, hval⟩ := unit_value hv
  exact ⟨s, v, hsat, hval, hsle, hvle, hrep⟩

/-- A row of the sector table holds `C`, `X` and `+0.0` (R69). -/
theorem mem_sectorRow (h : U32) {c x ch : F64}
    (hch : ch ∈ [(sectorRow h c x).1, (sectorRow h c x).2.1, (sectorRow h c x).2.2]) :
    ch = c ∨ ch = x ∨ ch = f64OfNat 0 := by
  simp only [sectorRow, List.mem_cons, List.not_mem_nil, or_false] at hch
  split_ifs at hch <;> tauto

section
variable {sat val : U64} {s v : Nat} (hops : UnitOperands sat val s v) (h : U32)
include hops

theorem UnitOperands.chroma_le : chroma s v ≤ v :=
  (f64Round_bounded false f64Unit_pos hops.representable (by rw [Nat.mul_comm]; gcongr; exact hops.sat_le)).2

theorem UnitOperands.representable_chroma : RepresentableMag (chroma s v) :=
  roundMagnitude_representable _ _ f64Unit_pos (hops.chroma_le.trans_lt hops.representable.1)

theorem UnitOperands.units_c : units (workingRegs h sat val).c = units (.fin false (chroma s v)) := by
  rw [workingRegs_c, units_f64Mul_congr hops.sat hops.val, f64Mul_fin]
  exact congrArg units (f64Round_of_lt (hops.chroma_le.trans_lt hops.representable.1))

theorem UnitOperands.units_x : ∃ x ≤ chroma s v, units (workingRegs h sat val).x = units (.fin false x) := by
  obtain ⟨k, hk, hkreg⟩ := workingRegs_k_unit h sat val
  obtain ⟨hround, hle⟩ := f64Round_bounded false f64Unit_pos hops.representable_chroma
    (num := chroma s v * k) (Nat.mul_le_mul_left _ hk)
  refine ⟨_, hle, ?_⟩
  rw [workingRegs_x, units_f64Mul_congr (hops.units_c h) (congrArg units hkreg), f64Mul_fin]
  exact congrArg units hround

theorem UnitOperands.units_m : units (workingRegs h sat val).m = units (.fin false (offset s v)) := by
  obtain ⟨hround, -⟩ := f64Round_bounded false one_pos hops.representable (num := v - chroma s v) (by omega)
  rw [workingRegs_m, units_f64Sub_congr hops.val (hops.units_c h), f64Sub_nonneg hops.chroma_le]
  exact congrArg units hround

/-- Each of `RP`, `GP`, `BP` is between 0 and `C` (R69). -/
theorem UnitOperands.units_channel {ch : F64}
    (hch : ch ∈ [(workingRegs h sat val).rp, (workingRegs h sat val).gp, (workingRegs h sat val).bp]) :
    ∃ a ≤ chroma s v, units ch = units (.fin false a) := by
  have hc : ∃ a ≤ chroma s v, units (workingRegs h sat val).c = units (.fin false a) := ⟨_, le_rfl, hops.units_c h⟩
  have hzero : ∃ a ≤ chroma s v, units (f64OfNat 0) = units (.fin false a) :=
    ⟨0, Nat.zero_le _, by rw [f64OfNat_zero]⟩
  rcases mem_sectorRow h (c := (workingRegs h sat val).c) (x := (workingRegs h sat val).x)
    (by rwa [← workingRegs_row]) with rfl | rfl | rfl
  · exact hc
  · exact hops.units_x h
  · exact hzero

/-- The offset exceeds the exact difference by a quarter of the unit in the last place of 1 at most, so the sum rounds
to at most 1: even the tie half a unit above 1 goes down (R75). -/
theorem UnitOperands.sum_le : roundMagnitude (chroma s v + offset s v) 1 ≤ f64Unit := by
  have hexp : roundExponent (v - chroma s v) 1 ≤ 1022 := by
    have hlt : v - chroma s v < 2 ^ (1074 + 1) := by
      rw [pow_succ, ← f64Unit_eq]
      have := hops.val_le
      have := f64Unit_pos
      omega
    unfold roundExponent
    rw [Nat.div_one]
    rcases Nat.eq_zero_or_pos (v - chroma s v) with h0 | hpos
    · simp [h0]
    · have := (Nat.log2_lt hpos.ne').2 hlt
      omega
  have hnear : 2 * offset s v ≤ 2 * (v - chroma s v) + 2 ^ 1022 := by
    have hbound := (roundDivEven_bounds (v - chroma s v) (1 * 2 ^ roundExponent (v - chroma s v) 1) (by positivity)).1
    rw [Nat.one_mul] at hbound
    unfold offset roundMagnitude
    rw [Nat.one_mul]
    have hpow : 2 ^ roundExponent (v - chroma s v) 1 ≤ 2 ^ 1022 := Nat.pow_le_pow_right two_pos hexp
    omega
  have hround : roundMagnitude (f64Unit + 2 ^ 1021) 1 = f64Unit := by decide +kernel
  rw [← hround]
  refine roundMagnitude_mono _ _ _ _ one_pos one_pos ?_
  have hhalf : 2 ^ 1022 = 2 * 2 ^ 1021 := pow_succ' 2 1021
  have hle := hops.val_le
  have hc := hops.chroma_le
  omega

theorem UnitOperands.units_beforeConversion {ch : F64} {a : Nat} (ha : a ≤ chroma s v)
    (hch : units ch = units (.fin false a)) :
    ∃ p ≤ 255 * f64Unit, units (beforeConversion ch (workingRegs h sat val).m) = units (.fin false p) := by
  have hsum : roundMagnitude (a + offset s v) 1 ≤ f64Unit :=
    (roundMagnitude_mono _ _ _ _ one_pos one_pos (by omega)).trans hops.sum_le
  have hadd : units (f64Add ch (workingRegs h sat val).m) =
      units (.fin false (roundMagnitude (a + offset s v) 1)) := by
    rw [units_f64Add_congr hch (hops.units_m h), f64Add_nonneg]
    exact congrArg units (f64Round_of_lt (hsum.trans_lt representableMag_unit.1))
  have hmax : RepresentableMag (255 * f64Unit) := f64OfNat_representable 255 (by norm_num)
  obtain ⟨hround, hle⟩ := f64Round_bounded false f64Unit_pos hmax
    (num := roundMagnitude (a + offset s v) 1 * (255 * f64Unit)) (by rw [Nat.mul_comm]; gcongr)
  refine ⟨_, hle, ?_⟩
  rw [beforeConversion, maxChannel_eq_f64OfNat, units_f64Mul_congr hadd rfl]
  exact congrArg units hround

end

/-! ### Channels in range -/

theorem f2u_le_255 (mode : Rounding) {x : F64} {p : Nat} (hp : p ≤ 255 * f64Unit)
    (hx : units x = units (.fin false p)) : ∃ c, f2u mode x = some c ∧ c.toNat ≤ 255 := by
  have hle : integerMagnitude mode p ≤ 255 :=
    (integerMagnitude_mono mode hp).trans (integerMagnitude_whole mode 255).le
  have hnat : (BitVec.ofNat 32 (integerMagnitude mode p)).toNat = integerMagnitude mode p := by
    rw [BitVec.toNat_ofNat]
    omega
  refine ⟨BitVec.ofNat 32 (integerMagnitude mode p), ?_, by omega⟩
  rw [f2u_congr mode hx, f2u_fin_eq_some_iff]
  exact ⟨hnat.symm, nofun⟩

/-- Operands in contract pass HSV validation. -/
theorem not_hsvInvalid_of_inContract {h : U32} {sat val : U64} (hc : hsvInContract h sat val = true) :
    ¬ HsvInvalid h sat val := by
  have hgt {b : U64} (hb : f64InUnit (f64OfBits b) = true) : ¬ f64Gt (f64OfBits b) one = true := by
    obtain ⟨n, hle, -, hunits⟩ := unit_value hb
    rw [f64Gt_congr hunits rfl, one_eq]
    simp [f64Gt, signedUnits, hle]
  simp only [hsvInContract, Bool.and_eq_true, decide_eq_true_eq] at hc
  obtain ⟨⟨hh, hs⟩, hv⟩ := hc
  rintro (hhue | hsat | hval)
  · exact absurd hhue (not_lt.2 hh)
  · exact hgt hs hsat
  · exact hgt hv hval

/-- The three channels of operands in contract are defined and in range, under either setting. -/
theorem UnitOperands.images {sat val : U64} {s v : Nat} (hops : UnitOperands sat val s v) (mode : Rounding) (h : U32) :
    ∃ r g b, channelImages mode (workingRegs h sat val) = (some r, some g, some b) ∧ ¬ RgbInvalid r g b := by
  have hchannel (ch : F64) (hch : ch ∈ [(workingRegs h sat val).rp, (workingRegs h sat val).gp,
      (workingRegs h sat val).bp]) :
      ∃ c, f2u mode (beforeConversion ch (workingRegs h sat val).m) = some c ∧ c.toNat ≤ 255 := by
    obtain ⟨a, ha, hunits⟩ := hops.units_channel h hch
    obtain ⟨p, hp, hbefore⟩ := hops.units_beforeConversion h ha hunits
    exact f2u_le_255 mode hp hbefore
  obtain ⟨r, hr, hrle⟩ := hchannel (workingRegs h sat val).rp (by simp)
  obtain ⟨g, hg, hgle⟩ := hchannel (workingRegs h sat val).gp (by simp)
  obtain ⟨b, hb, hble⟩ := hchannel (workingRegs h sat val).bp (by simp)
  refine ⟨r, g, b, by rw [channelImages, hr, hg, hb], ?_⟩
  unfold RgbInvalid
  omega

/-- Settles O26: each value before conversion is between 0 and 255, and so is each channel. -/
theorem inContractChannelsStayInRange : Obligations.InContractChannelsStayInRange := by
  intro h sat val hc
  obtain ⟨s, v, hops⟩ := unitOperands_of_inContract hc
  refine ⟨fun ch hch => ?_, fun st hready => ?_⟩
  · obtain ⟨a, ha, hunits⟩ := hops.units_channel h hch
    obtain ⟨p, hp, hbefore⟩ := hops.units_beforeConversion h ha hunits
    obtain ⟨neg, hfin, hsign⟩ := fin_of_units hbefore
    exact ⟨⟨neg, p, hfin, by rwa [← f64Unit_eq], hsign⟩, fun mode => f2u_le_255 mode hp hbefore⟩
  · obtain ⟨r, g, b, himages, hrgb⟩ := hops.images st.channelRounding h
    obtain ⟨hexec, -⟩ := exec_sethsv_of_images hready (not_hsvInvalid_of_inContract hc) hrgb himages
    exact ⟨.unknown, hexec⟩

/-! ### Greys and black -/

/-- Where `C` is a zero the three channels are the conversion of `V * 255.0` (R74). -/
theorem UnitOperands.images_of_chroma_zero {sat val : U64} {s v : Nat} (hops : UnitOperands sat val s v)
    (hzero : chroma s v = 0) (mode : Rounding) (h : U32) :
    channelImages mode (workingRegs h sat val) = (f2u mode (f64Mul (f64OfBits val) maxChannel),
      f2u mode (f64Mul (f64OfBits val) maxChannel), f2u mode (f64Mul (f64OfBits val) maxChannel)) := by
  have hoffset : offset s v = v := by
    rw [offset, hzero, Nat.sub_zero, roundMagnitude_of_representable v hops.representable]
  have hchannel (ch : F64) (hch : ch ∈ [(workingRegs h sat val).rp, (workingRegs h sat val).gp,
      (workingRegs h sat val).bp]) : f2u mode (beforeConversion ch (workingRegs h sat val).m) =
        f2u mode (f64Mul (f64OfBits val) maxChannel) := by
    obtain ⟨a, ha, hunits⟩ := hops.units_channel h hch
    obtain rfl : a = 0 := by omega
    refine f2u_congr mode (units_f64Mul_congr ?_ rfl)
    rw [units_f64Add_congr hunits (hops.units_m h), hoffset, f64Add_nonneg, Nat.zero_add, hops.val,
      f64Round_of_representable false hops.representable]
  rw [channelImages, hchannel _ (by simp), hchannel _ (by simp), hchannel _ (by simp)]

theorem eq_zero_of_units_plusZero {n : Nat} (h : units (f64OfBits 0) = units (.fin false n)) : n = 0 := by
  obtain ⟨neg, heq, -⟩ := fin_of_units h
  rw [plusZero_eq] at heq
  cases heq
  rfl

theorem chroma_zero_left (v : Nat) : chroma 0 v = 0 := by rw [chroma, Nat.zero_mul, roundMagnitude_zero]

theorem chroma_zero_right (s : Nat) : chroma s 0 = 0 := by rw [chroma, Nat.mul_zero, roundMagnitude_zero]

/-- Settles O29: saturation 0 and value 0 both make `C` a zero. -/
theorem zeroSaturationIsGreyAndZeroValueIsBlack : Obligations.ZeroSaturationIsGreyAndZeroValueIsBlack := by
  refine ⟨fun st h val hu hc => ?_, fun st h sat hu hc => ?_⟩
  · obtain ⟨s, v, hops⟩ := unitOperands_of_inContract hc
    obtain rfl := eq_zero_of_units_plusZero hops.sat
    have hgrey := hops.images_of_chroma_zero (chroma_zero_left v) st.channelRounding h
    obtain ⟨c, g, b, himages, -⟩ := hops.images st.channelRounding h
    have hc' : f2u st.channelRounding (f64Mul (f64OfBits val) maxChannel) = some c :=
      congrArg Prod.fst (hgrey.symm.trans himages)
    rw [hc'] at hgrey
    obtain ⟨t, hends, hstatus, hresults⟩ := hsv2rgb_results_of_images hu (not_hsvInvalid_of_inContract hc) hgrey
    exact ⟨t, c, hends, hc', hstatus, hresults⟩
  · obtain ⟨s, v, hops⟩ := unitOperands_of_inContract hc
    obtain rfl := eq_zero_of_units_plusZero hops.val
    have hblack := hops.images_of_chroma_zero (chroma_zero_right s) st.channelRounding h
    have hzero : f2u st.channelRounding (f64Mul (f64OfBits 0) maxChannel) = some 0 := by
      rw [plusZero_eq, maxChannel_eq_f64OfNat, f64OfNat, f64Mul_fin, Nat.zero_mul, f64Round_zero, f2u_zero]
    rw [hzero] at hblack
    exact hsv2rgb_results_of_images hu (not_hsvInvalid_of_inContract hc) hblack

/-! ### Sector boundaries -/

/-- At a multiple of 60 every step of R66 is exact (R76). -/
theorem workingRegs_boundary (k : Fin 7) :
    (workingRegs (BitVec.ofNat 32 (60 * k)) 0 0).hq = f64OfNat k
      ∧ (workingRegs (BitVec.ofNat 32 (60 * k)) 0 0).hm = f64OfNat (k % 2)
      ∧ (workingRegs (BitVec.ofNat 32 (60 * k)) 0 0).k = f64OfNat (k % 2) := by
  revert k
  decide +kernel

section
variable {k : Nat} {sat val : U64} (hk : k ≤ 6)
include hk

theorem workingRegs_hue_of_boundary : (workingRegs (BitVec.ofNat 32 (60 * k)) sat val).hq = f64OfNat k
      ∧ (workingRegs (BitVec.ofNat 32 (60 * k)) sat val).hm = f64OfNat (k % 2)
      ∧ (workingRegs (BitVec.ofNat 32 (60 * k)) sat val).k = f64OfNat (k % 2) := by
  obtain ⟨hhq, hhm, hhk⟩ := workingRegs_hue (BitVec.ofNat 32 (60 * k)) sat val 0 0
  rw [hhq, hhm, hhk]
  exact workingRegs_boundary ⟨k, by omega⟩

/-- `X` is `C` at the odd boundaries. -/
theorem workingRegs_x_of_odd (hodd : k % 2 = 1) : (workingRegs (BitVec.ofNat 32 (60 * k)) sat val).x =
    (workingRegs (BitVec.ofNat 32 (60 * k)) sat val).c := by
  obtain ⟨-, -, hhk⟩ := workingRegs_hue_of_boundary hk (sat := sat) (val := val)
  rw [workingRegs_x, hhk, hodd, ← one_eq_f64OfNat, f64Mul_one]
  exact f64Mul_representable _ _

end

/-- R76's table: the row of each boundary, with the image of `X` being that of `+0.0` at the even ones and that of `C` at
the odd ones. -/
theorem sectorRow_boundary {α : Type} (image : F64 → α) {k : Nat} {c x : F64}
    (heven : k % 2 = 0 → image x = image (f64OfNat 0)) (hodd : k % 2 = 1 → image x = image c) :
    let row := sectorRow (BitVec.ofNat 32 (60 * k)) c x
    let images := (image row.1, image row.2.1, image row.2.2)
    let m := image (f64OfNat 0)
    (k = 0 → images = (image c, m, m)) ∧ (k = 1 → images = (image c, image c, m))
    ∧ (k = 2 → images = (m, image c, m)) ∧ (k = 3 → images = (m, image c, image c))
    ∧ (k = 4 → images = (m, m, image c)) ∧ (k = 5 → images = (image c, m, image c))
    ∧ (k = 6 → images = (image c, m, m)) := by
  refine ⟨?_, ?_, ?_, ?_, ?_, ?_, ?_⟩ <;> rintro rfl
  · exact congrArg (image c, ·, image (f64OfNat 0)) (heven rfl)
  · exact congrArg (·, image c, image (f64OfNat 0)) (hodd rfl)
  · exact congrArg (image (f64OfNat 0), image c, ·) (heven rfl)
  · exact congrArg (image (f64OfNat 0), ·, image c) (hodd rfl)
  · exact congrArg (·, image (f64OfNat 0), image c) (heven rfl)
  · exact congrArg (image c, image (f64OfNat 0), ·) (hodd rfl)
  · exact congrArg (image c, image (f64OfNat 0), ·) (heven rfl)

/-- Settles O27: `X` has the value of `+0.0` or of `C`, and so its image. -/
theorem sectorBoundariesAreExact : Obligations.SectorBoundariesAreExact := by
  intro mode k sat val hk hc
  obtain ⟨s, v, hops⟩ := unitOperands_of_inContract hc
  obtain ⟨neg, hcfin, -⟩ := fin_of_units (hops.units_c (BitVec.ofNat 32 (60 * k)))
  obtain ⟨hhq, hhm, hhk⟩ := workingRegs_hue_of_boundary hk (sat := sat) (val := val)
  have heven (hpar : k % 2 = 0) : units (workingRegs (BitVec.ofNat 32 (60 * k)) sat val).x = units (f64OfNat 0) :=
    units_x_of_k_zero hcfin (by rw [hhk, hpar, f64OfNat_zero])
  have hodd (hpar : k % 2 = 1) := congrArg units (workingRegs_x_of_odd hk hpar (sat := sat) (val := val))
  have himage {a b : F64} (hab : units a = units b) := f2u_congr mode (units_beforeConversion_congr hab
    (rfl : units (workingRegs (BitVec.ofNat 32 (60 * k)) sat val).m = _))
  have htable := sectorRow_boundary
    (fun ch => f2u mode (beforeConversion ch (workingRegs (BitVec.ofNat 32 (60 * k)) sat val).m))
    (fun hpar => himage (heven hpar)) (fun hpar => himage (hodd hpar))
  rw [← workingRegs_row] at htable
  rw [plusZero_eq_f64OfNat]
  refine ⟨congrArg units hhq, congrArg units hhm, congrArg units hhk, ?_, htable⟩
  split
  case isTrue hpar => exact heven hpar
  case isFalse hpar => exact hodd (by omega)

end Sys2Proof.Machine
end

section
/-! PROOFS. Worked conversions of 95_test_vectors.md (40_normalizer.md R74, R77, R79). -/

open Sys2Proof.Claims

namespace Sys2Proof.Machine

theorem channelImages_hue210 (mode : Rounding) :
    channelImages mode (workingRegs 210 0x3FD0000000000000 0x3FE8000000000000) =
      (some 143, some 167, some 191) := by
  cases mode <;> decide +kernel

/-- `84.99999999999999` before the conversion of green: the example the two settings tell apart (R79). -/
theorem channelImages_hue20 (mode : Rounding) :
    channelImages mode (workingRegs 20 0x3FF0000000000000 0x3FF0000000000000) =
      (some 255, some (if mode = .trunc then 84 else 85), some 0) := by
  cases mode <;> decide +kernel

/-- A negative saturation, not clamped (R77). -/
theorem channelImages_negativeSaturation (mode : Rounding) :
    channelImages mode (workingRegs 0 0xBFF0000000000000 0x3FF0000000000000) =
      (some 255, some 510, some 510) := by
  cases mode <;> decide +kernel

/-- A negative value: green is `-255` before its conversion (R77). -/
theorem channelImages_negativeValue (mode : Rounding) :
    channelImages mode (workingRegs 120 0x3FF0000000000000 0xBFF0000000000000) =
      (some 0, none, some 0) := by
  cases mode <;> decide +kernel

/-- A NaN saturation (R77). -/
theorem channelImages_nanSaturation (mode : Rounding) :
    channelImages mode (workingRegs 0 0x7FF8000000000000 0x3FE0000000000000) =
      (none, none, none) := by
  cases mode <;> decide +kernel

/-- Settles O31: the five operand triples pass validation, and their images are those above. -/
theorem workedConversions : Obligations.WorkedConversions := by
  intro s hu
  have hvalid : ¬ HsvInvalid 210 0x3FD0000000000000 0x3FE8000000000000
      ∧ ¬ HsvInvalid 20 0x3FF0000000000000 0x3FF0000000000000
      ∧ ¬ HsvInvalid 0 0xBFF0000000000000 0x3FF0000000000000
      ∧ ¬ HsvInvalid 120 0x3FF0000000000000 0xBFF0000000000000
      ∧ ¬ HsvInvalid 0 0x7FF8000000000000 0x3FE0000000000000 := by
    unfold HsvInvalid
    decide +kernel
  obtain ⟨h210, h20, hnegSat, hnegVal, hnan⟩ := hvalid
  exact ⟨hsv2rgb_results_of_images hu h210 (channelImages_hue210 _),
    hsv2rgb_results_of_images hu h20 (channelImages_hue20 _),
    hsv2rgb_results_of_images hu hnegSat (channelImages_negativeSaturation _),
    hsv2rgb_results_and_draws_of_images hu hnegVal (channelImages_negativeValue _),
    hsv2rgb_results_of_images hu hnan (channelImages_nanSaturation _)⟩

end Sys2Proof.Machine
end

section
/-! PROOFS. The tick counts of the two patterns over the frequency (41_encoder.md R83, R84, R94, 70_reset_and_hazards.md
R145). -/

namespace Sys2Proof.Machine

/-- Settles O42: a quotient is zero exactly when its divisor, here not zero, exceeds its dividend. -/
theorem lowFrequenciesGiveZeroCounts : Obligations.LowFrequenciesGiveZeroCounts := by
  intro f hpos hle
  simp only [pattern0, pattern1, tickDuration_toNat, t0hNs, t0lNs, t1hNs, t1lNs]
  have hle_iff : 1000000000 / f.toNat ≤ 400 ↔ 1000000000 < 401 * f.toNat := by
    rw [← Nat.lt_succ_iff, Nat.div_lt_iff_lt_mul hpos]
  have hge_iff : 851 ≤ 1000000000 / f.toNat ↔ 851 * f.toNat ≤ 1000000000 := Nat.le_div_iff_mul_le hpos
  have htick : 1 ≤ 1000000000 / f.toNat := Nat.div_pos hle hpos
  generalize 1000000000 / f.toNat = tick at *
  have hzero (ns : Nat) : ns / tick = 0 ↔ ns < tick := by
    rw [Nat.div_eq_zero_iff]
    omega
  refine ⟨by omega, by omega, hzero 400, hzero 450, hzero 800, hzero 850, fun hslow => ?_⟩
  rw [(hzero 400).mpr (by omega), (hzero 450).mpr (by omega), (hzero 800).mpr (by omega), (hzero 850).mpr (by omega)]

/-- Settles O43: each count is the quotient of its nominal duration by the exact tick duration. -/
theorem dividingFrequencyNeverLengthensAPulse : Obligations.DividingFrequencyNeverLengthensAPulse := by
  intro f hdvd
  refine ⟨Nat.div_mul_cancel hdvd, fun count ns hcount => ?_⟩
  have htick : 0 < 1000000000 / f.toNat :=
    Nat.div_pos (Nat.le_of_dvd (by norm_num) hdvd) (Nat.pos_of_dvd_of_pos hdvd (by norm_num))
  obtain rfl : count = ns / (1000000000 / f.toNat) := by
    simp only [pattern0, pattern1, tickDuration_toNat, t0hNs, t0lNs, t1hNs, t1lNs, Prod.mk.injEq] at hcount
    rcases hcount with ⟨rfl, rfl⟩ | ⟨rfl, rfl⟩ | ⟨rfl, rfl⟩ | ⟨rfl, rfl⟩ <;> rfl
  exact ⟨Nat.div_mul_le_self _ _, Nat.lt_div_mul_add htick⟩

end Sys2Proof.Machine
end

section
/-! PROOFS. The course of a command that transmits, whole state by whole state: from `configure` to the release, or to
the `TickFault` (41_encoder.md R81 to R90, R93, R98, 42_peripheral_interface.md R106). -/

open Sys2Proof.Claims

namespace Sys2Proof.Machine

/-! ### The frame of a frequency -/

theorem frameOf_getElem (f r g b : U32) (k : Nat) (hk : k < 24) :
    (frameOf f r g b)[k] = if frameBit r g b k then patternOne f else patternZero f := by
  have hbit : (if k < 8 then g else if k < 16 then r else b).getLsbD (7 - k % 8) = frameBit r g b k := by
    rw [frameBit_eq r g b hk]
    split_ifs with hgreen
    · rw [Nat.mod_eq_of_lt hgreen]
    all_goals rfl
  rw [frameOf, Vector.getElem_ofFn, hbit]

/-- The pattern table and the loop leave the encoder's registers as the rules write them, whatever they held
(41_encoder.md R83 to R85). -/
theorem serialise_eq_encoderRegs (f r g b : U32) (e : EncRegs) :
    serialise r g b { e with
      freq := f, tickNs := tickDuration f, pat0 := pattern0 (tickDuration f), pat1 := pattern1 (tickDuration f) } =
      encoderRegs f r g b := by
  have hpat0 : pattern0 (tickDuration f) = patternZero f := by simp only [pattern0, tickDuration_toNat]; rfl
  have hpat1 : pattern1 (tickDuration f) = patternOne f := by simp only [pattern1, tickDuration_toNat]; rfl
  have htick : tickDuration f = BitVec.ofNat 32 (1000000000 / f.toNat) := by
    rw [← tickDuration_toNat, BitVec.ofNat_toNat, BitVec.setWidth_eq]
  rw [hpat0, hpat1]
  refine EncRegs.eq_of_fields (by simp [encoderRegs]) (by simp [encoderRegs, htick]) (by simp [encoderRegs])
    (by simp [encoderRegs]) (Vector.ext fun k hk => ?_) ?_ (by simp [encoderRegs])
  · rw [serialise_seq, EncRegs.pat, encoderRegs, frameOf_getElem]
  · simp [encoderRegs, frameWord, BitVec.setWidth_eq_extractLsb']

theorem ledAfterOk_eq_ledAfter (s : State) :
    ledAfterOk s = ledAfter s.ledAssumptions s.enc.pat0 s.enc.pat1 s.operands.r s.operands.g s.operands.b := by
  simp only [ledAfterOk, ledAfter, Bool.and_eq_true, decide_eq_true_eq, and_assoc]

theorem onFrequency_of_usable {f : U32} (hpos : 1 ≤ f.toNat) (hle : f.toNat ≤ 1000000000) (s : State) :
    onFrequency f s = startWrite { s with enc := encoderRegs f s.operands.r s.operands.g s.operands.b } := by
  rcases onFrequency_cases f s with ⟨rfl, -⟩ | ⟨hf, ht, -⟩ | ⟨-, -, heq⟩
  · exact absurd hpos (by decide)
  · exact absurd ((tickDuration_eq_zero_iff f hf).mp ht) (not_lt.mpr hle)
  · rw [heq, buildFrame, serialise_eq_encoderRegs]

theorem onFrequency_of_unusable {f : U32} (h : f = 0 ∨ 1000000000 < f.toNat) (s : State) :
    onFrequency f s = raise .tickFault { s with
      enc := { s.enc with freq := f, tickNs := if f = 0 then s.enc.tickNs else 0 } } := by
  rcases onFrequency_cases f s with ⟨hf, heq⟩ | ⟨hf, ht, heq⟩ | ⟨hf, ht, -⟩
  · rw [heq, if_pos hf]
  · rw [heq, if_neg hf, ht]
  · exact absurd ((tickDuration_eq_zero_iff f hf).mpr (h.resolve_left hf)) ht

/-! ### The states between the answers -/

section
variable (begun : State) (f : U32) (acks : List Ack) (freqs : List U32)

/-- `install` is outstanding, with `acks` the answers left over. -/
def installing : State :=
  { configuring begun with
    todo := some (.ask installOp)
    periph := { begun.periph with acks := acks, condition := .configured }
    trace := begun.trace ++ [configured .ok] }

/-- `get_clock_frequency` is outstanding. -/
def querying : State :=
  { configuring begun with
    phase := .encoding
    todo := some (.ask clockOp)
    periph := { begun.periph with acks := acks, condition := .installed }
    trace := (installing begun acks).trace ++ [installed .ok] }

/-- The frequency was `f`, which has no tick duration; what is left is the fatal error. -/
def unclocked : State :=
  { querying begun acks with
    todo := some (.fatal .tickFault)
    enc := { begun.enc with freq := f, tickNs := if f = 0 then begun.enc.tickNs else 0 }
    periph := { begun.periph with acks := acks, freqs := freqs, condition := .installed }
    trace := (querying begun acks).trace ++ [queried f] }

/-- `write` is outstanding, the frequency having been `f`. -/
def submitting : State :=
  { querying begun acks with
    phase := .transmitting
    todo := some (.ask (writeOp (frameOf f begun.operands.r begun.operands.g begun.operands.b)))
    enc := encoderRegs f begun.operands.r begun.operands.g begun.operands.b
    periph := { begun.periph with acks := acks, freqs := freqs, condition := .installed }
    trace := (querying begun acks).trace ++ [queried f] }

/-- `uninstall` is outstanding. -/
def releasing : State :=
  { submitting begun f acks freqs with
    phase := .tornDown
    todo := some (.ask uninstallOp)
    periph := {
      acks := acks
      freqs := freqs
      condition := .installed
      frame := some (frameOf f begun.operands.r begun.operands.g begun.operands.b) }
    trace := (submitting begun f acks freqs).trace
      ++ [wrote (frameOf f begun.operands.r begun.operands.g begun.operands.b) .ok] }

/-- The peripheral is released; what is left is `complete(OK)`. -/
def released : State :=
  { releasing begun f acks freqs with
    todo := some (.complete .ok)
    periph := { (releasing begun f acks freqs).periph with condition := .released }
    trace := (releasing begun f acks freqs).trace ++ [uninstalled .ok] }

end

/-! ### One step from each -/

section
variable {begun : State} {f : U32} {acks : List Ack} {freqs : List U32}
variable (hr : begun.host.resetReq = false) (hf : begun.fault = false)
include hr hf

theorem step_configuring (hacks : begun.periph.acks = .ok :: acks) :
    step (configuring begun) = .next (installing begun acks) :=
  (step_of_todo (s := configuring begun) hr hf rfl).trans
    (answerAck_answered configureOp onConfigure (s := configuring begun) hacks)

theorem step_installing : step (installing begun (.ok :: acks)) = .next (querying begun acks) :=
  (step_of_todo (s := installing begun (.ok :: acks)) hr hf rfl).trans
    (answerAck_answered installOp onInstall (s := installing begun (.ok :: acks)) rfl)

theorem step_querying (hfreqs : begun.periph.freqs = f :: freqs) :
    step (querying begun acks) = .next (onFrequency f (record (queried f) { querying begun acks with
      periph := { begun.periph with acks := acks, freqs := freqs, condition := .installed } })) :=
  (step_of_todo (s := querying begun acks) hr hf rfl).trans
    (answerHz_answered clockOp onFrequency (s := querying begun acks) hfreqs)

theorem step_querying_of_usable (hfreqs : begun.periph.freqs = f :: freqs) (hpos : 1 ≤ f.toNat)
    (hle : f.toNat ≤ 1000000000) : step (querying begun acks) = .next (submitting begun f acks freqs) := by
  rw [step_querying hr hf hfreqs, onFrequency_of_usable hpos hle]
  rfl

theorem step_querying_of_unusable (hfreqs : begun.periph.freqs = f :: freqs)
    (hunusable : f = 0 ∨ 1000000000 < f.toNat) :
    step (querying begun acks) = .next (unclocked begun f acks freqs) := by
  rw [step_querying hr hf hfreqs, onFrequency_of_unusable hunusable]
  rfl

theorem step_submitting : step (submitting begun f (.ok :: acks) freqs) = .next (releasing begun f acks freqs) :=
  (step_of_todo (s := submitting begun f (.ok :: acks) freqs) hr hf rfl).trans
    (answerAck_answered (writeOp _) onWrite (s := submitting begun f (.ok :: acks) freqs) rfl)

theorem step_releasing : step (releasing begun f (.ok :: acks) freqs) = .next (released begun f acks freqs) :=
  (step_of_todo (s := releasing begun f (.ok :: acks) freqs) hr hf rfl).trans
    (answerAck_answered uninstallOp onUninstall (s := releasing begun f (.ok :: acks) freqs) rfl)

theorem step_released : step (released begun f acks freqs) = .next (transmitted begun f acks freqs) := by
  rw [step_of_todo (s := released begun f acks freqs) hr hf rfl, advance, complete,
    ledAfterCommand, if_pos ⟨rfl, rfl⟩, ledAfterOk_eq_ledAfter]
  simp [record, transmitted, released, releasing, submitting, querying, installing, configuring, encoderRegs,
    CmdOutcome.code]

/-- A completion before the peripheral was torn down: `PHASE`, `STATUS` and the record (10_state.md R17). -/
theorem step_completing (o : CmdOutcome) (hp : begun.phase ≠ .tornDown) :
    step (goOn (.complete o) begun) = .next (completed o begun) := by
  rw [step_of_todo (s := goOn (.complete o) begun) hr hf rfl, advance,
    complete_eq_completed (s := goOn (.complete o) begun) o hp]
  rfl

/-! ### The whole course -/

/-- Two `ok` answers bring the command to its query (41_encoder.md R82). -/
theorem run_acquisition (n : Nat) (hacks : begun.periph.acks = .ok :: .ok :: acks) :
    run (n + 2) (configuring begun) = run n (querying begun acks) := by
  rw [run_succ _ (step_configuring hr hf hacks), run_succ _ (step_installing hr hf)]

/-- Every operation answered `ok` and a usable frequency: the command ends with its frame transmitted. -/
theorem run_transmission (hacks : begun.periph.acks = .ok :: .ok :: .ok :: .ok :: acks)
    (hfreqs : begun.periph.freqs = f :: freqs) (hpos : 1 ≤ f.toNat) (hle : f.toNat ≤ 1000000000) :
    run 6 (configuring begun) = .next (transmitted begun f acks freqs) := by
  rw [run_acquisition hr hf 4 hacks, run_succ _ (step_querying_of_usable hr hf hfreqs hpos hle),
    run_succ _ (step_submitting hr hf), run_succ _ (step_releasing hr hf), run_succ _ (step_released hr hf), run_zero]

/-- A frequency without a tick duration: the command ends in the fatal error (41_encoder.md R93, 60_exceptions.md
R121). -/
theorem run_tickFault (hacks : begun.periph.acks = .ok :: .ok :: acks) (hfreqs : begun.periph.freqs = f :: freqs)
    (hunusable : f = 0 ∨ 1000000000 < f.toNat) :
    run 4 (configuring begun) = .next { begun with
      phase := .fault, todo := none, fault := true, status := 3, led := .unknown
      enc := { begun.enc with freq := f, tickNs := if f = 0 then begun.enc.tickNs else 0 }
      periph := { begun.periph with acks := acks, freqs := freqs, condition := .installed }
      trace := begun.trace ++ [configured .ok, installed .ok, queried f, .fatal .tickFault] } := by
  rw [run_acquisition hr hf 2 hacks, run_succ _ (step_querying_of_unusable hr hf hfreqs hunusable),
    run_succ 0 (step_of_todo (s := unclocked begun f acks freqs) hr hf rfl), run_zero]
  simp [enterFault, record, unclocked, querying, installing, configuring, CmdError.outcome, CmdOutcome.code,
    conditionAfter]

end

/-! ### `SETRGB` -/

section
variable {s : State} {r g b : U32}

theorem exec_setrgb_of_invalid (hready : Ready s) (hinv : RgbInvalid r g b) :
    exec (.setrgb r g b) s = .next { acceptedRgb s r g b with todo := some (.complete .invalidArgument) } := by
  obtain ⟨hf, hp, ht⟩ := hready
  rw [exec_setrgb, whenReady_of_ready _ hf hp ht, encodeAndSend_of_invalid (s := accept (.setrgb r g b) s) hinv]
  rfl

theorem exec_setrgb_of_valid (hready : Ready s) (hvalid : ¬ RgbInvalid r g b) :
    exec (.setrgb r g b) s = .next (configuring (acceptedRgb s r g b)) := by
  obtain ⟨hf, hp, ht⟩ := hready
  have hacc := mt (rgbRejected_eq_true_iff r g b).mp hvalid
  rw [exec_setrgb, whenReady_of_ready _ hf hp ht]
  exact congrArg Host.Outcome.next (if_neg hacc)

/-- The completion of a rejected `SETRGB` changes `STATUS` and the record only: it never left `Idle` (R81). -/
theorem step_rejectedRgb (hu : Undisturbed s) :
    step { acceptedRgb s r g b with todo := some (.complete .invalidArgument) } = .next { s with
      status := 1, operands := { s.operands with op := 0, r := r, g := g, b := b }
      trace := s.trace ++ [.accept (.setrgb r g b), .complete .invalidArgument] } := by
  obtain ⟨⟨hf, hp, ht⟩, hr⟩ := hu
  refine (step_completing (begun := acceptedRgb s r g b) hr hf .invalidArgument (by simp [acceptedRgb, hp])).trans ?_
  simp [completed, acceptedRgb, CmdOutcome.code, ← hp, ← ht]

/-- A channel up to 255 is its low 8 bits. -/
theorem setWidth_setWidth_of_le_255 {c : U32} (h : c.toNat ≤ 255) : c = (c.setWidth 8).setWidth 32 := by
  refine BitVec.eq_of_toNat_eq ?_
  simp only [BitVec.toNat_setWidth]
  omega

end

/-- Settles O33: validation compares each channel with 255, and both of its ways are one step each. -/
theorem rgbValidation : Obligations.RgbValidation := by
  intro s r g b hu
  refine ⟨fun hinv => ⟨exec_setrgb_of_invalid hu.1 hinv, step_rejectedRgb hu⟩, fun hvalid => ?_⟩
  refine ⟨⟨.unknown, exec_setrgb_of_valid hu.1 hvalid⟩, ?_⟩
  simp only [RgbInvalid, not_or, not_lt] at hvalid
  obtain ⟨hr, hg, hb⟩ := hvalid
  exact ⟨setWidth_setWidth_of_le_255 hr, setWidth_setWidth_of_le_255 hg, setWidth_setWidth_of_le_255 hb⟩

/-- Settles O34, answer by answer. -/
theorem setrgbTransmits : Obligations.SetrgbTransmits := by
  intro s r g b f acks freqs hu hvalid hacks hfreqs hpos hle
  exact ⟨exec_setrgb_of_valid hu.1 hvalid,
    run_transmission (begun := acceptedRgb s r g b) hu.2 hu.1.1 hacks hfreqs hpos hle⟩

/-- A `SETRGB` word presented to a block at rest is taken and its frame transmitted, in seven steps. -/
theorem run_setrgb_word {s : State} {r g b f : U32} {rest : List CmdWord} {acks : List Ack} {freqs : List U32}
    (hu : Undisturbed s) (hvalid : ¬ RgbInvalid r g b) (hcmds : s.host.cmds = encode (.setrgb r g b) :: rest)
    (hacks : s.periph.acks = .ok :: .ok :: .ok :: .ok :: acks) (hfreqs : s.periph.freqs = f :: freqs)
    (hpos : 1 ≤ f.toNat) (hle : f.toNat ≤ 1000000000) :
    run 7 s = .next (transmitted (acceptedRgb (withCommands s rest) r g b) f acks freqs) := by
  have hquiet : Undisturbed (withCommands s rest) := hu
  obtain ⟨hexec, hrun⟩ := setrgbTransmits (withCommands s rest) r g b f acks freqs hquiet hvalid hacks hfreqs hpos hle
  have hstep := step_of_command hu.2 hu.1.1 hu.1.2.2 hcmds
  rw [decodeOfEncodeIsIdentity] at hstep
  rw [run_succ 6 (hstep.trans hexec), hrun]

/-- Settles O44: the second command begins where the first has ended, with its own answer. -/
theorem patternsAreRecomputedForEveryCommand : Obligations.PatternsAreRecomputedForEveryCommand := by
  intro s r g b r' g' b' f f' rest acks freqs hu hvalid hvalid' hcmds hacks hfreqs hpos hle hpos' hle'
  have hfirst := run_setrgb_word hu hvalid hcmds hacks hfreqs hpos hle
  have hidle : Undisturbed (transmitted (acceptedRgb (withCommands s (encode (.setrgb r' g' b') :: rest)) r g b) f
      (.ok :: .ok :: .ok :: .ok :: acks) (f' :: freqs)) := ⟨⟨hu.1.1, rfl, rfl⟩, hu.2⟩
  have hsecond := run_setrgb_word hidle hvalid' rfl rfl rfl hpos' hle'
  exact ⟨_, _, hfirst, hsecond, List.append_assoc .., rfl, List.append_assoc .., rfl, rfl, rfl, rfl⟩

/-! ### `SETHSV`, and both commands alike -/

/-- A command that passes both validations has issued `configure`. -/
theorem exec_of_begins {i : Instr} {s begun : State} (h : Begins i s begun) (hready : Ready s)
    (hvalid : ¬ RgbInvalid begun.operands.r begun.operands.g begun.operands.b) :
    exec i s = .next (configuring begun) := by
  rcases h with ⟨r, g, b, rfl, rfl⟩ | ⟨h, sat, val, rfl, hhsv, rfl⟩
  · exact exec_setrgb_of_valid hready hvalid
  · exact exec_sethsv_of_validRgb hready hhsv hvalid

/-- Before its first interface operation a command has touched neither the encoder's registers nor the peripheral. -/
theorem begins_frame {i : Instr} {s begun : State} (h : Begins i s begun) :
    begun.host = s.host ∧ begun.fault = s.fault ∧ begun.enc = s.enc ∧ begun.periph = s.periph := by
  rcases h with ⟨r, g, b, -, rfl⟩ | ⟨h, sat, val, -, -, rfl⟩
  · exact ⟨rfl, rfl, rfl, rfl⟩
  · exact ⟨rfl, rfl, rfl, rfl⟩

/-- Settles O35: the answer to the query is the last event before the fatal error. -/
theorem unusableFrequencyIsATickFault : Obligations.UnusableFrequencyIsATickFault := by
  intro i s begun f acks freqs hu hacks hfreqs hunusable hbegins hvalid
  obtain ⟨hhost, hfault, henc, hperiph⟩ := begins_frame hbegins
  refine ⟨exec_of_begins hbegins hu.1 hvalid, ?_⟩
  rw [← henc, ← hperiph]
  exact run_tickFault (hhost ▸ hu.2) (hfault ▸ hu.1.1) (hperiph ▸ hacks) (hperiph ▸ hfreqs) hunusable

/-- Settles O45: the converted channels fail the second validation before the peripheral is touched. -/
theorem sethsvRejectsConvertedChannels : Obligations.SethsvRejectsConvertedChannels := by
  intro s h sat val hu hhsv begun hinv
  refine ⟨?_, step_completing (begun := begun) hu.2 hu.1.1 .invalidArgument (by simp [begun, handedOver])⟩
  rw [exec_sethsv_of_handedOver hu.1 hhsv, encodeAndSend_of_invalid hinv]
  rfl

/-- Settles O46: operands in contract pass both validations, and the course is that of every transmission. -/
theorem sethsvTransmits : Obligations.SethsvTransmits := by
  intro s h sat val f acks freqs hu hcontract hacks hfreqs hpos hle
  have hhsv := not_hsvInvalid_of_inContract hcontract
  obtain ⟨sat', val', hops⟩ := unitOperands_of_inContract hcontract
  obtain ⟨r, g, b, himages, hrgb⟩ := hops.images s.channelRounding h
  obtain ⟨hexec, -⟩ := exec_sethsv_of_images hu.1 hhsv hrgb himages
  exact ⟨hexec, run_transmission (begun := handedOver s h sat val) hu.2 hu.1.1 hacks hfreqs hpos hle⟩

end Sys2Proof.Machine
end

section
/-! PROOFS. The bounds on a frame (41_encoder.md R95): from the answer of the clock query on, the encoder holds a built
frame, and what is submitted is that frame. -/

open Sys2Proof.Claims

namespace Sys2Proof.Machine

/-! ### The counts of a built frame -/

section
variable {o : OperandRegs} {e : EncRegs} (h : FrameBuilt o e)
include h

theorem FrameBuilt.tick_pos : 1 ≤ e.tickNs.toNat := by
  obtain ⟨hpos, hle⟩ := h.frequency
  rw [h.tick]
  exact Nat.div_pos hle hpos

/-- A quotient is at most its dividend, so the counts are at most the nominal durations in nanoseconds. -/
theorem FrameBuilt.pattern_le :
    ∀ p ∈ [e.pat0, e.pat1], p.high ≤ 850 ∧ p.low ≤ 850 ∧ p.high + p.low ≤ 1250 := by
  have hle (ns : Nat) : ns / e.tickNs.toNat ≤ ns := Nat.div_le_self ns _
  intro p hp
  obtain rfl | rfl : p = e.pat0 ∨ p = e.pat1 := by simpa using hp
  · rw [h.zero]
    exact ⟨(hle 400).trans (by decide), hle 850, Nat.add_le_add (hle 400) (hle 850)⟩
  · rw [h.one]
    exact ⟨(hle 800).trans (by decide), (hle 450).trans (by decide), Nat.add_le_add (hle 800) (hle 450)⟩

theorem FrameBuilt.seq_mem : ∀ p ∈ e.seq.toList, p = e.pat0 ∨ p = e.pat1 := by
  intro p hp
  obtain ⟨k, hk, rfl⟩ := Vector.getElem_of_mem (Vector.mem_toList_iff.mp hp)
  have hentry := h.sequence ⟨k, hk⟩
  split at hentry
  · exact .inr hentry
  · exact .inl hentry

/-- 24 entries of at most 1250 ticks each. -/
theorem FrameBuilt.duration_le : (e.seq.toList.map fun p => p.high + p.low).sum ≤ 30000 := by
  refine (List.sum_le_card_nsmul _ 1250 ?_).trans (by simp)
  simp only [List.mem_map]
  rintro _ ⟨p, hp, rfl⟩
  exact (h.pattern_le p (by simpa using h.seq_mem p hp)).2.2

end

/-! ### Where a command stands with its frame -/

/-- The event is the answer of the clock query or of the submission. -/
def Event.OfFrame : Event → Prop
  | .periph (.getClockFrequency _) _ => True
  | .periph (.write _ _ _) _         => True
  | _                                => False

/-- Every sequence that the events submit is `seq`. -/
def SubmitsOnly (seq : PulseSequence) (events : List Event) : Prop :=
  ∀ ch seq' wait a, .periph (.write ch seq' wait) a ∈ events → seq' = seq

/-- Where a command stands that has come to the state `t` with the events `new`. -/
inductive FrameStage (new : List Event) (t : State) : Prop where
  /-- The clock has not been queried. -/
  | acquiring (events : ∀ e ∈ new, ¬ e.OfFrame)
      (todo : ∀ op, t.todo = some (.ask op) → op.phase = .configuring ∨ op.phase = .encoding)
  /-- A `TickFault` was raised. -/
  | tickFault (raised : t.todo = some (.fatal .tickFault) ∨ .fatal .tickFault ∈ new)
      (todo : ∀ op, t.todo ≠ some (.ask op))
  /-- The frame is built, and only it is submitted. -/
  | built (frame : FrameBuilt t.operands t.enc)
      (submitted : SubmitsOnly t.enc.seq new)
      (todo : ∀ op, t.todo = some (.ask op) → op = writeOp t.enc.seq ∨ op = uninstallOp)

section
variable {new : List Event} {t : State}

theorem not_ofFrame_append (events : ∀ e ∈ new, ¬ e.OfFrame) {e : Event} (he : ¬ e.OfFrame) :
    ∀ x ∈ new ++ [e], ¬ x.OfFrame :=
  List.forall_mem_append.mpr ⟨events, List.forall_mem_singleton.mpr he⟩

theorem SubmitsOnly.append {seq : PulseSequence} (h : SubmitsOnly seq new) {e : Event}
    (he : ∀ ch seq' wait a, e = .periph (.write ch seq' wait) a → seq' = seq) : SubmitsOnly seq (new ++ [e]) := by
  intro ch seq' wait a hmem
  rcases List.mem_append.mp hmem with hold | hnew
  · exact h _ _ _ _ hold
  · exact he _ _ _ _ (List.mem_singleton.mp hnew).symm

theorem FrameStage.onConfigure (events : ∀ e ∈ new, ¬ e.OfFrame) (a : Ack) : FrameStage new (onConfigure a t) := by
  refine .acquiring events ?_
  cases a with
  | ok =>
    rintro op ⟨⟩
    exact .inl rfl
  | err => nofun

theorem FrameStage.onInstall (events : ∀ e ∈ new, ¬ e.OfFrame) (a : Ack) : FrameStage new (onInstall a t) := by
  refine .acquiring events ?_
  cases a with
  | ok =>
    rintro op ⟨⟩
    exact .inr rfl
  | err => nofun

theorem FrameStage.onFrequency (f : U32) (hnone : ∀ seq, SubmitsOnly seq new) : FrameStage new (onFrequency f t) := by
  rcases onFrequency_cases f t with ⟨-, heq⟩ | ⟨-, -, heq⟩ | ⟨hf, ht, heq⟩ <;> rw [heq]
  · exact .tickFault (.inl rfl) nofun
  · exact .tickFault (.inl rfl) nofun
  · refine .built (frameBuilt_buildFrame { t with enc := _ } hf rfl ht) (hnone _) ?_
    rintro op ⟨⟩
    exact .inl rfl

theorem FrameStage.onWrite (frame : FrameBuilt t.operands t.enc) (submitted : SubmitsOnly t.enc.seq new)
    (a : Ack) : FrameStage new (onWrite a t) := by
  cases a with
  | ok =>
    refine .built frame submitted ?_
    rintro op ⟨⟩
    exact .inr rfl
  | err => exact .built frame submitted nofun

theorem FrameStage.onUninstall (frame : FrameBuilt t.operands t.enc) (submitted : SubmitsOnly t.enc.seq new)
    (a : Ack) : FrameStage new (onUninstall a t) := by
  cases a <;> exact .built frame submitted nofun

theorem FrameStage.complete (h : FrameStage new t) {o : CmdOutcome} (htodo : t.todo = some (.complete o)) :
    FrameStage (new ++ [.complete o]) (complete o t) := by
  cases h with
  | acquiring events _ => exact .acquiring (not_ofFrame_append events id) nofun
  | tickFault raised _ => exact .tickFault (.inr (by simpa [htodo] using raised)) nofun
  | built frame submitted _ => exact .built frame (submitted.append nofun) nofun

theorem FrameStage.enterFault (h : FrameStage new t) {e : CmdError} (htodo : t.todo = some (.fatal e)) :
    FrameStage (new ++ [.fatal e]) (enterFault e t) := by
  cases h with
  | acquiring events _ => exact .acquiring (not_ofFrame_append events id) nofun
  | tickFault raised _ => exact .tickFault (.inr (by simpa [htodo, or_comm, eq_comm] using raised)) nofun
  | built frame submitted _ => exact .built frame (submitted.append nofun) nofun

/-- The operation that is outstanding tells the stage, and its answer leads to the same or to the next one. -/
theorem FrameStage.answer (h : FrameStage new t) {op : PeriphOp} {u : State} (htodo : t.todo = some (.ask op))
    (hans : answer op t = .next u) : ∃ e, u.trace = t.trace ++ [e] ∧ FrameStage (new ++ [e]) u := by
  cases h with
  | acquiring events todo =>
    have hphase := todo op htodo
    rcases answer_next hans with ⟨f, rest, ⟨ch, rfl⟩, -, rfl⟩ | ⟨a, rest, next, -, rfl, hnext⟩
    · refine ⟨_, (onFrequency_goesOn f _).trace, .onFrequency f fun seq => SubmitsOnly.append ?_ nofun⟩
      exact fun _ _ _ _ hmem => (events _ hmem trivial).elim
    · rcases hnext with ⟨⟨_, _, _, _, rfl⟩, rfl⟩ | ⟨⟨_, rfl⟩, rfl⟩ | ⟨⟨_, _, _, rfl⟩, rfl⟩ | ⟨⟨_, rfl⟩, rfl⟩
      · exact ⟨_, (onConfigure_goesOn a _).trace, .onConfigure (not_ofFrame_append events id) a⟩
      · exact ⟨_, (onInstall_goesOn a _).trace, .onInstall (not_ofFrame_append events id) a⟩
      · simp [PeriphOp.phase] at hphase
      · simp [PeriphOp.phase] at hphase
  | tickFault _ todo => exact absurd htodo (todo op)
  | built frame submitted todo =>
    rcases todo op htodo with rfl | rfl
    · obtain ⟨a, rest, -, rfl⟩ := answerAck_next hans
      refine ⟨_, (onWrite_goesOn a _).trace, FrameStage.onWrite ?_ ?_ a⟩
      · exact frame
      · refine submitted.append ?_
        rintro _ _ _ _ ⟨⟩
        rfl
    · obtain ⟨a, rest, -, rfl⟩ := answerAck_next hans
      refine ⟨_, (onUninstall_goesOn a _).trace, FrameStage.onUninstall ?_ ?_ a⟩
      · exact frame
      · refine submitted.append ?_
        rintro _ _ _ _ ⟨⟩

theorem FrameStage.advance (h : FrameStage new t) {next : CommandStep} {u : State} (htodo : t.todo = some next)
    (hadv : advance next t = .next u) : ∃ e, u.trace = t.trace ++ [e] ∧ FrameStage (new ++ [e]) u := by
  rcases advance_next hadv with ⟨op, rfl, hans⟩ | ⟨o, rfl, rfl⟩ | ⟨e, rfl, rfl⟩
  · exact h.answer htodo hans
  · exact ⟨_, rfl, h.complete htodo⟩
  · exact ⟨_, rfl, h.enterFault htodo⟩

end

/-! ### The whole command -/

/-- What holds in every state `t` of a command taken in `s`. -/
def FrameCourse (s t : State) : Prop :=
  t.host.resetReq = false ∧ ∃ new, t.trace = s.trace ++ new ∧ FrameStage new t

/-- A command that was taken is about to complete, or issues `configure` first (41_encoder.md R89, R90). -/
theorem exec_todo_cases {i : Instr} {s t : State} (h : exec i s = .next t) :
    (∃ o, t.todo = some (.complete o)) ∨ t.todo = some (.ask configureOp) := by
  have hsend (u : State) : (∃ o, (encodeAndSend u).todo = some (.complete o))
      ∨ (encodeAndSend u).todo = some (.ask configureOp) := by
    rcases encodeAndSend_cases u with ⟨-, heq⟩ | ⟨-, heq⟩ <;> rw [heq]
    · exact .inl ⟨_, rfl⟩
    · exact .inr rfl
  obtain ⟨-, -, -, ⟨r, g, b, -, rfl⟩ | ⟨hue, sat, val, -, rfl⟩ | ⟨hue, sat, val, -, rfl⟩⟩ := exec_next h
  · exact hsend _
  · rcases convertThen_cases (fun s => encodeAndSend (handOver s)) (accept i s) with ⟨-, heq⟩ | ⟨-, heq⟩ <;> rw [heq]
    · exact .inl ⟨_, rfl⟩
    · exact hsend _
  · rcases convertThen_cases (goOn (.complete .ok)) (accept i s) with ⟨-, heq⟩ | ⟨-, heq⟩ <;> rw [heq] <;>
      exact .inl ⟨_, rfl⟩

theorem frameCourse_begins {i : Instr} {s t : State} (hr : s.host.resetReq = false) (h : exec i s = .next t) :
    FrameCourse s t := by
  obtain ⟨hhost, -, htrace⟩ := exec_host_status_trace h
  refine ⟨hhost ▸ hr, _, htrace, .acquiring (by simp [Event.OfFrame]) fun op hop => ?_⟩
  rcases exec_todo_cases h with ⟨o, htodo⟩ | htodo <;> rw [htodo] at hop <;> cases hop
  exact .inl rfl

theorem FrameCourse.step {s t u : State} (h : FrameCourse s t) (htodo : t.todo ≠ none) (hstep : step t = .next u) :
    FrameCourse s u := by
  obtain ⟨hr, new, htrace, hstage⟩ := h
  obtain ⟨next, hnext, hadv⟩ := step_of_inProgress hr htodo hstep
  obtain ⟨e, htrace', hstage'⟩ := hstage.advance hnext hadv
  refine ⟨?_, new ++ [e], by rw [htrace', htrace, List.append_assoc], hstage'⟩
  rw [(advance_frame hadv).1.host]
  exact hr

/-- Settles O41: after the answer of the query and without a `TickFault` the frame is built, which bounds its counts. -/
theorem submittedCountsAreBounded : Obligations.SubmittedCountsAreBounded := by
  intro i s t f hr hreach hqueried hnotodo hnotrace
  obtain ⟨-, new, htrace, hstage⟩ : FrameCourse s t :=
    commandReaches_induction hreach (fun _ => frameCourse_begins hr) (fun _ _ h => h.step)
  have hdrop : t.trace.drop s.trace.length = new := by rw [htrace, List.drop_left]
  rw [hdrop] at hqueried hnotrace ⊢
  cases hstage with
  | acquiring events _ => exact (events _ hqueried trivial).elim
  | tickFault raised _ => exact absurd raised (not_or.mpr ⟨hnotodo, hnotrace⟩)
  | built frame submitted _ =>
    exact ⟨frame.tick_pos, frame.pattern_le, frame.seq_mem, frame.duration_le, submitted⟩

end Sys2Proof.Machine
end

section
/-! PROOFS. The frame of `SETHSV` (41_encoder.md R90, 60_exceptions.md R116): what its accept and its conversion write,
and that no further step writes any of it. -/

open Sys2Proof.Claims

namespace Sys2Proof.Machine

/-! ### From the accept on -/

theorem EncoderFrame.refl (s : State) : EncoderFrame s s := by constructor <;> simp

/-- Every state of a command has the encoder's frame over the state right after the accept, and `STATUS` until its
end. -/
theorem commandReaches_frame {i : Instr} {s begun t : State} (hr : s.host.resetReq = false)
    (hexec : exec i s = .next begun) (h : CommandReaches i s t) :
    EncoderFrame begun t ∧ (t.todo ≠ none → t.status = begun.status) := by
  refine commandReaches_induction (P := fun u => EncoderFrame begun u ∧ (u.todo ≠ none → u.status = begun.status)) h
    (fun u hu => ?_) ?_
  · obtain rfl : begun = u := by simpa [hexec] using hu
    exact ⟨.refl begun, fun _ => rfl⟩
  · rintro u v ⟨hframe, hstatus⟩ htodo hstep
    obtain ⟨hhost, -⟩ := exec_host_status_trace hexec
    have hquiet : u.host.resetReq = false := by rw [hframe.host, hhost, hr]
    obtain ⟨next, -, hadv⟩ := step_of_inProgress hquiet htodo hstep
    obtain ⟨hframe', hstatus'⟩ := advance_frame hadv
    exact ⟨hframe.trans hframe', fun hv => (hstatus' hv).trans (hstatus htodo)⟩

/-- A command that is only to complete before anything was torn down leaves the encoder, the peripheral and the LED as
they are. -/
theorem commandReaches_of_completing {i : Instr} {s begun t : State} {o : CmdOutcome} (hexec : exec i s = .next begun)
    (hr : begun.host.resetReq = false) (hf : begun.fault = false) (htodo : begun.todo = some (.complete o))
    (hp : begun.phase ≠ .tornDown) (h : CommandReaches i s t) :
    t.enc = begun.enc ∧ t.periph = begun.periph ∧ t.led = begun.led ∧ t.fault = false := by
  have hstates : t = begun ∨ t = complete o begun := by
    refine commandReaches_induction (P := fun u => u = begun ∨ u = complete o begun) h (fun u hu => .inl ?_) ?_
    · simpa [hexec] using hu.symm
    · rintro u v (rfl | rfl) hbusy hstep
      · rw [step_of_todo hr hf htodo] at hstep
        cases hstep
        exact .inr rfl
      · exact absurd rfl hbusy
  rcases hstates with rfl | rfl
  · exact ⟨rfl, rfl, rfl, hf⟩
  · exact ⟨rfl, rfl, by simp [ledAfterCommand, hp], hf⟩

/-! ### `SETHSV` -/

/-- What a `SETHSV` has latched and converted in `written` holds in all its states: with operands out of range it was
turned away, else it was converted and handed over. -/
theorem sethsv_reaches {s t : State} {h : U32} {sat val : U64} (hr : s.host.resetReq = false)
    (hreach : CommandReaches (.sethsv h sat val) s t) :
    Ready s ∧ (t.todo ≠ none → t.status = s.status) ∧ ∃ written, EncoderFrame written t
      ∧ (HsvInvalid h sat val ∧ written = hsvTurnedAway s 1 (.sethsv h sat val) h sat val
        ∨ ¬ HsvInvalid h sat val ∧ written = handedOver s h sat val) := by
  obtain ⟨begun, -, hexec, -⟩ := id hreach
  obtain ⟨hframe, hstatus⟩ := commandReaches_frame hr hexec hreach
  obtain ⟨hf, hp, ht, -⟩ := exec_next hexec
  have hready : Ready s := ⟨hf, hp, ht⟩
  obtain ⟨-, hbegun, -⟩ := exec_host_status_trace hexec
  refine ⟨hready, fun htodo => (hstatus htodo).trans hbegun, ?_⟩
  by_cases hinv : HsvInvalid h sat val
  · rw [exec_sethsv_of_invalid hready hinv] at hexec
    cases hexec
    exact ⟨_, hframe, .inl ⟨hinv, rfl⟩⟩
  · rw [exec_sethsv_of_handedOver hready hinv] at hexec
    cases hexec
    exact ⟨_, (encodeAndSend_goesOn _).toEncoderFrame.trans hframe, .inr ⟨hinv, rfl⟩⟩

/-- Settles O47: every state has the frame over what was written at first, and a rejected command only completes. -/
theorem sethsvFrame : Obligations.SethsvFrame := by
  intro s t h sat val hr hreach
  obtain ⟨hready, hstatus, written, hframe, hcases⟩ := sethsv_reaches hr hreach
  obtain ⟨hhost, hresets, hassume, hround, hperiph, hop, hh, hs, hv⟩ :
      written.host = s.host ∧ written.resets = s.resets ∧ written.ledAssumptions = s.ledAssumptions
        ∧ written.channelRounding = s.channelRounding ∧ written.periph = s.periph ∧ written.operands.op = 1
        ∧ written.operands.h = h ∧ written.operands.s = sat ∧ written.operands.v = val := by
    rcases hcases with ⟨-, rfl⟩ | ⟨-, rfl⟩ <;> exact ⟨rfl, rfl, rfl, rfl, rfl, rfl, rfl, rfl, rfl⟩
  obtain ⟨acks, hacks⟩ := hperiph ▸ hframe.acks
  obtain ⟨freqs, hfreqs⟩ := hperiph ▸ hframe.freqs
  refine ⟨hframe.host.trans hhost, hframe.resets.trans hresets, hframe.ledAssumptions.trans hassume,
    hframe.channelRounding.trans hround, by rw [hframe.operands, hop], by rw [hframe.operands, hh],
    by rw [hframe.operands, hs], by rw [hframe.operands, hv], hstatus, fun hinv => ?_, fun hvalid => ?_,
    acks, freqs, hacks.symm, hfreqs.symm⟩
  · rcases hcases with ⟨-, rfl⟩ | ⟨hvalid, -⟩
    · obtain ⟨henc, hport, hled, hfault⟩ := commandReaches_of_completing (exec_sethsv_of_invalid hready hinv) hr
        hready.1 rfl nofun hreach
      exact ⟨hframe.operands, hframe.results, hframe.norm, hframe.draws, henc, hport, hled, hfault⟩
    · exact absurd hinv hvalid
  · rcases hcases with ⟨hinv, -⟩ | ⟨-, rfl⟩
    · exact absurd hinv hvalid
    · refine ⟨hframe.norm, ?_⟩
      rw [hframe.results, hframe.draws, hframe.operands]
      refine ⟨rfl, rfl, rfl, rfl, fun hrgb => ?_⟩
      have hexec := exec_sethsv_of_handedOver hready hvalid
      rw [encodeAndSend_of_invalid (s := handedOver s h sat val) hrgb] at hexec
      exact commandReaches_of_completing (begun := raise .invalidArgument (handedOver s h sat val)) hexec hr
        hready.1 rfl nofun hreach

end Sys2Proof.Machine
end

section
/-! PROOFS. The order of events (42_peripheral_interface.md R106, R107): each step records at most one event, the order
allows it where the run stands, and the state is then where the order goes on. -/

open Sys2Proof.Claims

namespace Sys2Proof.Machine

/-! ### The order, event by event -/

theorem Protocol.run_append_event (p : Protocol) (events : List Event) (e : Event) :
    Protocol.run p (events ++ [e]) = (Protocol.run p events).bind fun q => q.next e := by
  simp [Protocol.run, List.foldlM_append]

section
variable {i : Instr} {f : U32} {seq : PulseSequence}

theorem protocolNext_accept (h : i.wellFormed = true) : Protocol.next .ready (.accept i) = some (.accepted i) := by
  simp [Protocol.next, h]

theorem protocolNext_configured (h : transmits i = true) (a : Ack) :
    Protocol.next (.accepted i) (configured a) = some (.after .configure .configured a) := by
  simp [Protocol.next, Protocol.onPeriph, configured, h]

theorem protocolNext_installed (a : Ack) :
    Protocol.next .configured (installed a) = some (.after .install .installed a) := by
  simp [Protocol.next, Protocol.onPeriph, installed]

theorem protocolNext_queried_of_usable (h : 1 ≤ f.toNat ∧ f.toNat ≤ 1000000000) :
    Protocol.next .installed (queried f) = some (.clocked f) := by
  simp [Protocol.next, Protocol.onPeriph, queried, h]

theorem protocolNext_queried_of_unusable (h : ¬ (1 ≤ f.toNat ∧ f.toNat ≤ 1000000000)) :
    Protocol.next .installed (queried f) = some (.failed .tickFault) := by
  simp only [Protocol.next, Protocol.onPeriph, queried, if_neg h, if_true]

theorem protocolNext_wrote (h : patternsOf f seq = true) (a : Ack) :
    Protocol.next (.clocked f) (wrote seq a) = some (.after .write .written a) := by
  simp [Protocol.next, Protocol.onPeriph, wrote, h]

theorem protocolNext_uninstalled (a : Ack) :
    Protocol.next .written (uninstalled a) = some (.after .uninstall .released a) := by
  simp [Protocol.next, Protocol.onPeriph, uninstalled]

theorem protocolNext_fatal (e : CmdError) : Protocol.next (.failed e) (.fatal e) = some .dead := by
  simp [Protocol.next]

end

/-! ### Where the state goes on -/

theorem agrees_onConfigure (a : Ack) (s : State) :
    (Protocol.after .configure .configured a).Agrees (onConfigure a s) := by
  cases a <;> rfl

theorem agrees_onInstall (a : Ack) (s : State) :
    (Protocol.after .install .installed a).Agrees (onInstall a s) := by
  cases a <;> rfl

theorem agrees_onWrite (a : Ack) (s : State) : (Protocol.after .write .written a).Agrees (onWrite a s) := by
  cases a <;> rfl

theorem agrees_onUninstall (a : Ack) (s : State) :
    (Protocol.after .uninstall .released a).Agrees (onUninstall a s) := by
  cases a with
  | ok => exact .inl rfl
  | err => rfl

/-- A command that may use the peripheral issues `configure`, or is turned away by its validation. -/
theorem agrees_encodeAndSend {i : Instr} (h : transmits i = true) (s : State) :
    (Protocol.accepted i).Agrees (encodeAndSend s) := by
  rcases encodeAndSend_cases s with ⟨-, heq⟩ | ⟨-, heq⟩ <;> rw [heq]
  · exact ⟨i, rfl⟩
  · exact ⟨i, h, rfl⟩

theorem agrees_convertThen {i : Instr} {next : State → State} (h : ∀ u, (Protocol.accepted i).Agrees (next u))
    (s : State) : (Protocol.accepted i).Agrees (convertThen next s) := by
  rcases convertThen_cases next s with ⟨-, heq⟩ | ⟨-, heq⟩ <;> rw [heq]
  · exact ⟨i, rfl⟩
  · exact h _

theorem agrees_converted {i : Instr} (h : convertsOnly i = true) (s : State) :
    (Protocol.accepted i).Agrees (goOn (.complete .ok) s) := .inr ⟨i, h, rfl⟩

/-- A command that was taken is one the order allows, and stands right after its accept. -/
theorem agrees_exec {i : Instr} {s t : State} (h : exec i s = .next t) :
    i.wellFormed = true ∧ (Protocol.accepted i).Agrees t := by
  obtain ⟨-, -, -, ⟨r, g, b, rfl, rfl⟩ | ⟨hue, sat, val, rfl, rfl⟩ | ⟨hue, sat, val, rfl, rfl⟩⟩ := exec_next h
  · exact ⟨rfl, agrees_encodeAndSend rfl _⟩
  · exact ⟨rfl, agrees_convertThen (fun u => agrees_encodeAndSend rfl (handOver u)) _⟩
  · exact ⟨rfl, agrees_convertThen (agrees_converted rfl) _⟩

/-! ### One step -/

/-- A built frame consists of the two patterns of its frequency (41_encoder.md R84, R85). -/
theorem FrameBuilt.patternsOf_seq {o : OperandRegs} {e : EncRegs} (h : FrameBuilt o e) :
    patternsOf e.freq e.seq = true := by
  simp only [patternsOf, List.all_eq_true, decide_eq_true_eq, ← h.tick, ← h.zero, ← h.one]
  exact h.seq_mem

/-- The step from `s` to `t` is the event `e`, and from wherever `s` can stand the order goes on with it to where `t`
stands. -/
def KeepsOrder (s t : State) (e : Event) : Prop :=
  t.trace = s.trace ++ [e] ∧ ∀ p : Protocol, p.Agrees s → ∃ q, p.next e = some q ∧ q.Agrees t

theorem State.SafeRun.of_keepsOrder {s t : State} {e : Event} (h : s.SafeRun) (hstep : KeepsOrder s t e) :
    t.SafeRun := by
  obtain ⟨p, hrun, hp⟩ := h
  obtain ⟨htrace, hnext⟩ := hstep
  obtain ⟨q, hq, hagrees⟩ := hnext p hp
  exact ⟨q, by rw [htrace, Protocol.run_append_event, hrun, Option.bind_some, hq], hagrees⟩

theorem keepsOrder_applyReset (s : State) : KeepsOrder s (applyReset s) .reset :=
  ⟨rfl, fun _ _ => ⟨.ready, rfl, rfl⟩⟩

theorem keepsOrder_exec {i : Instr} {s t : State} (h : exec i s = .next t) : KeepsOrder s t (.accept i) := by
  obtain ⟨hf, -, htodo, -⟩ := exec_next h
  obtain ⟨hwf, hagrees⟩ := agrees_exec h
  refine ⟨(exec_host_status_trace h).2.2, fun p hp => ⟨.accepted i, ?_, hagrees⟩⟩
  obtain rfl : p = .ready := by simpa [Protocol.Agrees, htodo, hf] using hp
  exact protocolNext_accept hwf

section
variable {s t : State} (hinv : s.Inv)
include hinv

/-- The operation that is outstanding tells where the run stands, and its answer where it goes on. -/
theorem keepsOrder_answer {op : PeriphOp} (htodo : s.todo = some (.ask op)) (hans : answer op s = .next t) :
    ∃ a, KeepsOrder s t (.periph op a) := by
  obtain ⟨hphase, rfl | rfl | rfl | rfl | rfl⟩ := hinv.outstanding op htodo
  · obtain ⟨a, rest, -, rfl⟩ := answerAck_next hans
    refine ⟨.ack a, (onConfigure_goesOn a _).trace, fun p hp => ⟨_, ?_, agrees_onConfigure a _⟩⟩
    obtain ⟨i, hi, rfl⟩ : ∃ i, transmits i = true ∧ p = .accepted i := by simpa only [Protocol.Agrees, htodo] using hp
    exact protocolNext_configured hi a
  · obtain ⟨a, rest, -, rfl⟩ := answerAck_next hans
    refine ⟨.ack a, (onInstall_goesOn a _).trace, fun p hp => ⟨_, ?_, agrees_onInstall a _⟩⟩
    obtain rfl : p = .configured := by simpa only [Protocol.Agrees, htodo] using hp
    exact protocolNext_installed a
  · obtain ⟨f, rest, -, rfl⟩ := answerHz_next hans
    refine ⟨.hz f, (onFrequency_goesOn f _).trace, fun p hp => ?_⟩
    obtain rfl : p = .installed := by simpa only [Protocol.Agrees, htodo] using hp
    by_cases husable : 1 ≤ f.toNat ∧ f.toNat ≤ 1000000000
    · rw [onFrequency_of_usable husable.1 husable.2]
      exact ⟨.clocked f, protocolNext_queried_of_usable husable, rfl⟩
    · have hunusable : f = 0 ∨ 1000000000 < f.toNat := by bv_omega
      rw [onFrequency_of_unusable hunusable]
      exact ⟨.failed .tickFault, protocolNext_queried_of_unusable husable, rfl⟩
  · obtain ⟨a, rest, -, rfl⟩ := answerAck_next hans
    refine ⟨.ack a, (onWrite_goesOn a _).trace, fun p hp => ⟨_, ?_, agrees_onWrite a _⟩⟩
    obtain rfl : p = .clocked s.enc.freq := by simpa only [Protocol.Agrees, htodo] using hp
    exact protocolNext_wrote (hinv.frame (.inl hphase)).patternsOf_seq a
  · obtain ⟨a, rest, -, rfl⟩ := answerAck_next hans
    refine ⟨.ack a, (onUninstall_goesOn a _).trace, fun p hp => ⟨_, ?_, agrees_onUninstall a _⟩⟩
    obtain rfl : p = .written := by simpa only [Protocol.Agrees, htodo] using hp
    exact protocolNext_uninstalled a

/-- A command completes with `OK` or `InvalidArgument` only, and the run then stands between two commands. -/
theorem keepsOrder_complete {o : CmdOutcome} (hf : s.fault = false) (htodo : s.todo = some (.complete o)) :
    KeepsOrder s (complete o s) (.complete o) := by
  have hend : EndsAsAllowed s (.complete o) := hinv.ending _ htodo
  have hready : Protocol.Agrees .ready (complete o s) := by simp [Protocol.Agrees, hf]
  refine ⟨rfl, fun p hp => ⟨.ready, ?_, hready⟩⟩
  simp only [Protocol.Agrees, htodo] at hp
  cases o with
  | ok =>
    rcases hp with rfl | ⟨i, hi, rfl⟩
    · rfl
    · exact if_pos hi
  | invalidArgument =>
    obtain ⟨i, rfl⟩ := hp
    rfl
  | peripheralError => exact hend.elim
  | tickFault => exact hend.elim

end

theorem keepsOrder_enterFault {s : State} {e : CmdError} (htodo : s.todo = some (.fatal e)) :
    KeepsOrder s (enterFault e s) (.fatal e) := by
  refine ⟨rfl, fun p hp => ⟨.dead, ?_, rfl⟩⟩
  obtain rfl : p = .failed e := by simpa only [Protocol.Agrees, htodo] using hp
  exact protocolNext_fatal e

/-! ### The run -/

/-- Settles O53: nothing has happened and no command is in progress. -/
theorem resetStateBeginsASafeRun : Obligations.ResetStateBeginsASafeRun := ⟨.ready, rfl, rfl⟩

/-- Settles O54: a step waits and changes nothing, or is one event the order allows. -/
theorem everyStepKeepsTheOrderOfEvents : Obligations.EveryStepKeepsTheOrderOfEvents := by
  intro s t hinv hsafe ht
  rcases step_next ht with ⟨-, rfl⟩ | ⟨-, hf, ⟨next, htodo, hadv⟩ | ⟨-, -, rfl⟩ | ⟨w, rest, -, -, hexec⟩⟩
  · exact hsafe.of_keepsOrder (keepsOrder_applyReset s)
  · rcases advance_next hadv with ⟨op, rfl, hans⟩ | ⟨o, rfl, rfl⟩ | ⟨e, rfl, rfl⟩
    · obtain ⟨a, hstep⟩ := keepsOrder_answer hinv htodo hans
      exact hsafe.of_keepsOrder hstep
    · exact hsafe.of_keepsOrder (keepsOrder_complete hinv hf htodo)
    · exact hsafe.of_keepsOrder (keepsOrder_enterFault htodo)
  · exact hsafe
  · exact State.SafeRun.of_keepsOrder (s := withCommands s rest) hsafe (keepsOrder_exec hexec)

end Sys2Proof.Machine
end

section
/-! PROOFS. Each step of a command is one event, an answer is taken off its own queue, and when an answer comes makes no
difference (42_peripheral_interface.md R100, R108). -/

open Sys2Proof.Claims

namespace Sys2Proof.Machine

/-! ### The answers still to come -/

/-- Settles O11: each operation waits for the next answer of its kind. -/
theorem unansweredOperationIsStuck : Obligations.UnansweredOperationIsStuck := by
  intro s op hr hf htodo hnone
  rw [step_of_todo hr hf htodo, advance]
  cases op with
  | getClockFrequency ch => exact answerHz_unanswered _ _ hnone
  | configure pin ch div lp => exact answerAck_unanswered _ _ hnone
  | install ch => exact answerAck_unanswered _ _ hnone
  | write ch seq wait => exact answerAck_unanswered _ _ hnone
  | uninstall ch => exact answerAck_unanswered _ _ hnone

/-- The same answers are still to come. -/
def SameAnswersToCome (s t : State) : Prop := t.periph.acks = s.periph.acks ∧ t.periph.freqs = s.periph.freqs

theorem onConfigure_answersToCome (a : Ack) (s : State) : SameAnswersToCome s (onConfigure a s) := by
  cases a <;> exact ⟨rfl, rfl⟩

theorem onInstall_answersToCome (a : Ack) (s : State) : SameAnswersToCome s (onInstall a s) := by
  cases a <;> exact ⟨rfl, rfl⟩

theorem onFrequency_answersToCome (f : U32) (s : State) : SameAnswersToCome s (onFrequency f s) := by
  rcases onFrequency_cases f s with ⟨-, heq⟩ | ⟨-, -, heq⟩ | ⟨-, -, heq⟩ <;> rw [heq] <;> exact ⟨rfl, rfl⟩

theorem onWrite_answersToCome (a : Ack) (s : State) : SameAnswersToCome s (onWrite a s) := by
  cases a <;> exact ⟨rfl, rfl⟩

theorem onUninstall_answersToCome (a : Ack) (s : State) : SameAnswersToCome s (onUninstall a s) := by
  cases a <;> exact ⟨rfl, rfl⟩

/-- The operation `op`, outstanding in `s`, is answered by the next answer of its kind: that answer is taken and
recorded, and no other is. -/
def IsAnswered (op : PeriphOp) (s t : State) : Prop :=
  (∃ f, s.periph.freqs = f :: t.periph.freqs ∧ t.periph.acks = s.periph.acks
    ∧ t.trace = s.trace ++ [.periph op (.hz f)] ∧ ∃ ch, op = .getClockFrequency ch)
  ∨ ∃ a, s.periph.acks = a :: t.periph.acks ∧ t.periph.freqs = s.periph.freqs
    ∧ t.trace = s.trace ++ [.periph op (.ack a)] ∧ ∀ ch, op ≠ .getClockFrequency ch

theorem answer_isAnswered {op : PeriphOp} {s t : State} (h : answer op s = .next t) : IsAnswered op s t := by
  rcases answer_next h with ⟨f, rest, hop, hfreqs, rfl⟩ | ⟨a, rest, next, hacks, rfl, hnext⟩
  · obtain ⟨ha, hf⟩ := onFrequency_answersToCome f
      (record (.periph op (.hz f)) { s with periph := { s.periph with freqs := rest } })
    exact .inl ⟨f, by rw [hf, hfreqs]; rfl, ha, (onFrequency_goesOn f _).trace, hop⟩
  · have hkeeps (u : State) : (next a u).trace = u.trace ∧ SameAnswersToCome u (next a u) := by
      rcases hnext with ⟨-, rfl⟩ | ⟨-, rfl⟩ | ⟨-, rfl⟩ | ⟨-, rfl⟩
      · exact ⟨(onConfigure_goesOn a u).trace, onConfigure_answersToCome a u⟩
      · exact ⟨(onInstall_goesOn a u).trace, onInstall_answersToCome a u⟩
      · exact ⟨(onWrite_goesOn a u).trace, onWrite_answersToCome a u⟩
      · exact ⟨(onUninstall_goesOn a u).trace, onUninstall_answersToCome a u⟩
    obtain ⟨htrace, ha, hf⟩ := hkeeps
      (record (.periph op (.ack a)) { s with periph := { s.periph with acks := rest } })
    refine .inr ⟨a, by rw [ha, hacks]; rfl, hf, htrace, ?_⟩
    rintro ch rfl
    simp at hnext

/-- A block that takes a step without a reset is not halted (10_state.md R18). -/
theorem fault_of_step_next {s t : State} (hr : s.host.resetReq = false) (h : step s = .next t) : s.fault = false := by
  rcases step_next h with ⟨hr', -⟩ | ⟨-, hf, -⟩
  · simp [hr] at hr'
  · exact hf

/-- Settles O12: what is left of the command tells which step it is. -/
theorem everyOperationIsOneStep : Obligations.EveryOperationIsOneStep := by
  intro s t hr ht
  have hf := fault_of_step_next hr ht
  refine ⟨fun htodo hcmds => ?_, fun w rest htodo hcmds => ?_, fun op htodo => ?_, fun o htodo => ?_,
    fun e htodo => ?_⟩
  · rw [step_of_waiting hr hf htodo hcmds] at ht
    cases ht
    rfl
  · rw [step_of_command hr hf htodo hcmds] at ht
    exact (exec_host_status_trace ht).2.2
  · rw [step_of_todo hr hf htodo] at ht
    exact answer_isAnswered ht
  · rw [step_of_todo hr hf htodo] at ht
    cases ht
    exact ⟨rfl, rfl, rfl, rfl, rfl⟩
  · rw [step_of_todo hr hf htodo] at ht
    cases ht
    exact ⟨rfl, rfl, rfl, rfl, rfl, rfl, rfl⟩

/-! ### Answers that come later -/

section
variable (acks : List Ack) (freqs : List U32)

theorem moreAnswers_onConfigure (a : Ack) (s : State) :
    onConfigure a (moreAnswers acks freqs s) = moreAnswers acks freqs (onConfigure a s) := by
  cases a <;> rfl

theorem moreAnswers_onInstall (a : Ack) (s : State) :
    onInstall a (moreAnswers acks freqs s) = moreAnswers acks freqs (onInstall a s) := by
  cases a <;> rfl

theorem moreAnswers_onFrequency (f : U32) (s : State) :
    onFrequency f (moreAnswers acks freqs s) = moreAnswers acks freqs (onFrequency f s) := by
  by_cases hf : f = 0
  · simp only [onFrequency, if_pos hf]
    rfl
  · by_cases ht : tickDuration f = 0
    · simp only [onFrequency, if_neg hf, if_pos ht]
      rfl
    · simp only [onFrequency, if_neg hf, if_neg ht]
      rfl

theorem moreAnswers_onWrite (a : Ack) (s : State) :
    onWrite a (moreAnswers acks freqs s) = moreAnswers acks freqs (onWrite a s) := by
  cases a <;> rfl

theorem moreAnswers_onUninstall (a : Ack) (s : State) :
    onUninstall a (moreAnswers acks freqs s) = moreAnswers acks freqs (onUninstall a s) := by
  cases a <;> rfl

theorem moreAnswers_encodeAndSend (s : State) :
    encodeAndSend (moreAnswers acks freqs s) = moreAnswers acks freqs (encodeAndSend s) :=
  (apply_ite (moreAnswers acks freqs) _ (raise .invalidArgument s) (startConfigure s)).symm

theorem moreAnswers_convertThen {next : State → State}
    (hnext : ∀ u, next (moreAnswers acks freqs u) = moreAnswers acks freqs (next u)) (s : State) :
    convertThen next (moreAnswers acks freqs s) = moreAnswers acks freqs (convertThen next s) := by
  rcases convertThen_cases next s with ⟨hrej, heq⟩ | ⟨hacc, heq⟩ <;> rw [heq]
  · exact if_pos hrej
  · rw [← hnext]
    exact if_neg (Bool.eq_false_iff.mp hacc)

variable {acks freqs}

theorem answerAck_moreAnswers {op : PeriphOp} {next : Ack → State → State} {s t : State}
    (hnext : ∀ a u, next a (moreAnswers acks freqs u) = moreAnswers acks freqs (next a u))
    (h : answerAck op next s = .next t) :
    answerAck op next (moreAnswers acks freqs s) = .next (moreAnswers acks freqs t) := by
  obtain ⟨a, rest, hacks, rfl⟩ := answerAck_next h
  have hmore : (moreAnswers acks freqs s).periph.acks = a :: (rest ++ acks) := congrArg (· ++ acks) hacks
  rw [← hnext]
  exact answerAck_answered op next hmore

theorem answerHz_moreAnswers {op : PeriphOp} {next : U32 → State → State} {s t : State}
    (hnext : ∀ f u, next f (moreAnswers acks freqs u) = moreAnswers acks freqs (next f u))
    (h : answerHz op next s = .next t) :
    answerHz op next (moreAnswers acks freqs s) = .next (moreAnswers acks freqs t) := by
  obtain ⟨f, rest, hfreqs, rfl⟩ := answerHz_next h
  have hmore : (moreAnswers acks freqs s).periph.freqs = f :: (rest ++ freqs) := congrArg (· ++ freqs) hfreqs
  rw [← hnext]
  exact answerHz_answered op next hmore

theorem answer_moreAnswers {op : PeriphOp} {s t : State} (h : answer op s = .next t) :
    answer op (moreAnswers acks freqs s) = .next (moreAnswers acks freqs t) := by
  cases op with
  | configure pin ch div lp => exact answerAck_moreAnswers (moreAnswers_onConfigure acks freqs) h
  | install ch => exact answerAck_moreAnswers (moreAnswers_onInstall acks freqs) h
  | getClockFrequency ch => exact answerHz_moreAnswers (moreAnswers_onFrequency acks freqs) h
  | write ch seq wait => exact answerAck_moreAnswers (moreAnswers_onWrite acks freqs) h
  | uninstall ch => exact answerAck_moreAnswers (moreAnswers_onUninstall acks freqs) h

theorem advance_moreAnswers {next : CommandStep} {s t : State} (h : advance next s = .next t) :
    advance next (moreAnswers acks freqs s) = .next (moreAnswers acks freqs t) := by
  rcases advance_next h with ⟨op, rfl, hans⟩ | ⟨o, rfl, rfl⟩ | ⟨e, rfl, rfl⟩
  · exact answer_moreAnswers hans
  · rfl
  · rfl

theorem exec_moreAnswers {i : Instr} {s t : State} (h : exec i s = .next t) :
    exec i (moreAnswers acks freqs s) = .next (moreAnswers acks freqs t) := by
  obtain ⟨hf, hp, ht, hcmd⟩ := exec_next h
  have hready (meaning : State → State) :
      whenReady (moreAnswers acks freqs s) meaning = .next (meaning (moreAnswers acks freqs s)) :=
    whenReady_of_ready meaning hf hp ht
  rcases hcmd with ⟨r, g, b, rfl, rfl⟩ | ⟨hue, sat, val, rfl, rfl⟩ | ⟨hue, sat, val, rfl, rfl⟩
  · rw [exec_setrgb, hready, ← moreAnswers_encodeAndSend]
    rfl
  · rw [exec_sethsv, hready,
      ← moreAnswers_convertThen acks freqs fun u => moreAnswers_encodeAndSend acks freqs (handOver u)]
    rfl
  · rw [exec_hsv2rgb, hready, ← moreAnswers_convertThen acks freqs (next := goOn (.complete .ok)) fun _ => rfl]
    rfl

theorem step_moreAnswers {s t : State} (h : step s = .next t) :
    step (moreAnswers acks freqs s) = .next (moreAnswers acks freqs t) := by
  rcases step_next h with ⟨hr, rfl⟩ |
    ⟨hr, hf, ⟨next, htodo, hadv⟩ | ⟨htodo, hcmds, rfl⟩ | ⟨w, rest, htodo, hcmds, hexec⟩⟩
  · exact step_of_resetReq (s := moreAnswers acks freqs s) hr
  · exact (step_of_todo (s := moreAnswers acks freqs s) hr hf htodo).trans (advance_moreAnswers hadv)
  · exact step_of_waiting (s := moreAnswers acks freqs t) hr hf htodo hcmds
  · have hlate : exec (decode w) (moreAnswers acks freqs (withCommands s rest)) = .next (moreAnswers acks freqs t) :=
      exec_moreAnswers hexec
    exact (step_of_command (s := moreAnswers acks freqs s) hr hf htodo hcmds).trans hlate

theorem run_moreAnswers {n : Nat} {s t : State} (h : run n s = .next t) :
    run n (moreAnswers acks freqs s) = .next (moreAnswers acks freqs t) := by
  induction n generalizing s with
  | zero =>
    cases h
    rfl
  | succ n ih =>
    obtain ⟨u, hu, hrest⟩ := run_succ_next h
    exact (run_succ n (step_moreAnswers hu)).trans (ih hrest)

end

/-- A run goes on from the state its first steps have reached. -/
theorem run_add {n : Nat} {s t : State} (m : Nat) (h : run n s = .next t) : run (n + m) s = run m t := by
  induction n generalizing s with
  | zero =>
    cases h
    rw [Nat.zero_add]
  | succ n ih =>
    obtain ⟨u, hu, hrest⟩ := run_succ_next h
    rw [Nat.add_right_comm, run_succ _ hu, ih hrest]

/-- Settles O13: every operation takes its answer from the front of its queue and leaves the rest of it alone. -/
theorem lateAnswersGiveTheSameOutcome : Obligations.LateAnswersGiveTheSameOutcome :=
  fun _ _ => ⟨fun _ _ _ => exec_moreAnswers,
    fun _ m _ _ h => ⟨run_moreAnswers h, run_add m (run_moreAnswers h)⟩⟩

end Sys2Proof.Machine
end

section
/-! PROOFS. How a command that transmits ends before its release: an `err` is fatal, and an operation without an answer
is left outstanding (42_peripheral_interface.md R107, R108, 60_exceptions.md R117, R118). -/

open Sys2Proof.Claims

namespace Sys2Proof.Machine

/-! ### An `err` answer -/

/-- The step at which an operation fails that answers `err` (60_exceptions.md R117); the clock query has no such
answer. -/
def PeriphOp.failingStep : PeriphOp → Option FailingStep
  | .configure _ _ _ _   => some .configure
  | .install _           => some .install
  | .getClockFrequency _ => none
  | .write _ _ _         => some .write
  | .uninstall _         => some .uninstall

section
variable {s : State} {op : PeriphOp} {failing : FailingStep} {acks : List Ack}

theorem answer_of_err (hop : op.failingStep = some failing) (hacks : s.periph.acks = .err :: acks) :
    answer op s = .next (raise (.peripheralError failing)
      (record (.periph op (.ack .err)) { s with periph := { s.periph with acks := acks } })) := by
  cases op with
  | configure pin ch div lp =>
    cases hop
    exact answerAck_answered _ onConfigure hacks
  | install ch =>
    cases hop
    exact answerAck_answered _ onInstall hacks
  | getClockFrequency ch => cases hop
  | write ch seq wait =>
    cases hop
    exact answerAck_answered _ onWrite hacks
  | uninstall ch =>
    cases hop
    exact answerAck_answered _ onUninstall hacks

/-- An `err` is followed by the fatal error, and nothing further is issued (42_peripheral_interface.md R107); `new` are
the events of the command so far. -/
theorem run_of_err {old new : List Event} (hr : s.host.resetReq = false) (hf : s.fault = false)
    (htodo : s.todo = some (.ask op)) (hop : op.failingStep = some failing) (hacks : s.periph.acks = .err :: acks)
    (htrace : s.trace = old ++ new) :
    run 2 s = .next { s with
      phase := .fault, todo := none, fault := true, status := 2, led := .unknown
      periph := { s.periph with acks := acks, condition := .unknown }
      trace := old ++ (new ++ [.periph op (.ack .err), .fatal (.peripheralError failing)]) } := by
  have hanswer := (step_of_todo hr hf htodo).trans (answer_of_err hop hacks)
  have hfatal := step_of_todo (next := .fatal (.peripheralError failing)) (s := raise (.peripheralError failing)
    (record (.periph op (.ack .err)) { s with periph := { s.periph with acks := acks } })) hr hf rfl
  rw [run_succ 1 hanswer, run_succ 0 hfatal, run_zero]
  simp [enterFault, raise, goOn, record, CmdError.outcome, CmdOutcome.code, conditionAfter, htrace]

end

/-! ### The states between the answers -/

section
variable (begun : State) (f : U32) (acks : List Ack) (freqs : List U32)

theorem querying_trace : (querying begun acks).trace = begun.trace ++ [configured .ok, installed .ok] :=
  List.append_assoc ..

theorem submitting_trace :
    (submitting begun f acks freqs).trace = begun.trace ++ [configured .ok, installed .ok, queried f] := by
  simp [submitting, querying_trace]

theorem releasing_trace : (releasing begun f acks freqs).trace = begun.trace ++ [configured .ok, installed .ok,
    queried f, wrote (frameOf f begun.operands.r begun.operands.g begun.operands.b) .ok] := by
  simp [releasing, submitting_trace]

end

section
variable {begun : State} {f : U32} {acks : List Ack} {freqs : List U32}
variable (hr : begun.host.resetReq = false) (hf : begun.fault = false)
include hr hf

/-- A usable frequency brings the command to its submission (41_encoder.md R86). -/
theorem run_to_submitting (n : Nat) (hacks : begun.periph.acks = .ok :: .ok :: acks)
    (hfreqs : begun.periph.freqs = f :: freqs) (hpos : 1 ≤ f.toNat) (hle : f.toNat ≤ 1000000000) :
    run (n + 3) (configuring begun) = run n (submitting begun f acks freqs) := by
  rw [run_acquisition hr hf (n + 1) hacks, run_succ n (step_querying_of_usable hr hf hfreqs hpos hle)]

/-- An accepted submission brings it to its release (41_encoder.md R87). -/
theorem run_to_releasing (n : Nat) (hacks : begun.periph.acks = .ok :: .ok :: .ok :: acks)
    (hfreqs : begun.periph.freqs = f :: freqs) (hpos : 1 ≤ f.toNat) (hle : f.toNat ≤ 1000000000) :
    run (n + 4) (configuring begun) = run n (releasing begun f acks freqs) := by
  rw [run_to_submitting hr hf (n + 1) hacks hfreqs hpos hle, run_succ n (step_submitting hr hf)]

end

/-! ### The commands -/

theorem begins_undisturbed {i : Instr} {s begun : State} (h : Begins i s begun) (hu : Undisturbed s) :
    begun.host.resetReq = false ∧ begun.fault = false := by
  obtain ⟨hhost, hfault, -⟩ := begins_frame h
  exact ⟨hhost ▸ hu.2, hfault ▸ hu.1.1⟩

/-- Settles O36: the command is at `configure` or at `install` when the `err` comes. -/
theorem failedAcquisitionIsFatal : Obligations.FailedAcquisitionIsFatal := by
  intro i s begun acks hu hbegins hvalid
  obtain ⟨-, -, -, hperiph⟩ := begins_frame hbegins
  obtain ⟨hr, hf⟩ := begins_undisturbed hbegins hu
  rw [← hperiph]
  refine ⟨exec_of_begins hbegins hu.1 hvalid, fun hacks => ?_, fun hacks => ?_⟩
  · exact run_of_err (s := configuring begun) (new := []) (op := configureOp) hr hf rfl rfl hacks
      (List.append_nil _).symm
  · rw [run_succ 2 (step_configuring hr hf hacks)]
    exact run_of_err (s := installing begun (.err :: acks)) (op := installOp) hr hf rfl rfl rfl rfl

/-- Settles O37: the command is at `write` or at `uninstall` when the `err` comes, its frame built. -/
theorem failedSubmissionOrReleaseIsFatal : Obligations.FailedSubmissionOrReleaseIsFatal := by
  intro i s begun f acks freqs hu hfreqs hpos hle hbegins hvalid frame
  obtain ⟨-, -, -, hperiph⟩ := begins_frame hbegins
  obtain ⟨hr, hf⟩ := begins_undisturbed hbegins hu
  rw [← hperiph] at hfreqs ⊢
  refine ⟨exec_of_begins hbegins hu.1 hvalid, fun hacks => ?_, fun hacks => ?_⟩
  · rw [run_to_submitting hr hf 2 hacks hfreqs hpos hle]
    exact run_of_err (s := submitting begun f (.err :: acks) freqs) (op := writeOp frame) hr hf rfl rfl rfl
      (submitting_trace ..)
  · rw [run_to_releasing hr hf 2 hacks hfreqs hpos hle]
    exact run_of_err (s := releasing begun f (.err :: acks) freqs) (op := uninstallOp) hr hf rfl rfl rfl
      (releasing_trace ..)

/-- A state is what it is with its record written in another way. -/
theorem next_congr_trace (s : State) {events : List Event} (h : s.trace = events) :
    (.next s : StepOutcome) = .next { s with trace := events } := by rw [← h]

/-- Settles O38: each of the states between the answers, with no answer left, is where the command is stuck. -/
theorem unansweredOperationIsLeftOutstanding : Obligations.UnansweredOperationIsLeftOutstanding := by
  intro i s begun f freqs hu hbegins hvalid
  obtain ⟨-, -, -, hperiph⟩ := begins_frame hbegins
  obtain ⟨hr, hf⟩ := begins_undisturbed hbegins hu
  have hstuck := unansweredOperationIsStuck
  rw [← hperiph]
  intro enc frame atConfigure atInstall atQuery atWrite atUninstall
  refine ⟨exec_of_begins hbegins hu.1 hvalid, fun hacks => ?_, fun hacks => ⟨?_, ?_⟩, fun hacks hfreqs => ⟨?_, ?_⟩,
    fun hfreqs hpos hle => ⟨fun hacks => ⟨?_, ?_⟩, fun hacks => ⟨?_, ?_⟩⟩⟩
  · exact hstuck atConfigure configureOp hr hf rfl hacks
  · exact run_succ 0 (step_configuring hr hf hacks)
  · exact hstuck atInstall installOp hr hf rfl rfl
  · exact (run_acquisition hr hf 0 hacks).trans (next_congr_trace _ (querying_trace ..))
  · exact hstuck atQuery clockOp hr hf rfl hfreqs
  · exact (run_to_submitting hr hf 0 hacks hfreqs hpos hle).trans (next_congr_trace _ (submitting_trace ..))
  · exact hstuck atWrite (writeOp frame) hr hf rfl rfl
  · exact (run_to_releasing hr hf 0 hacks hfreqs hpos hle).trans (next_congr_trace _ (releasing_trace ..))
  · exact hstuck atUninstall uninstallOp hr hf rfl rfl

end Sys2Proof.Machine
end

section
/-! PROOFS. What the LED shows after each outcome (60_exceptions.md R133): the steps that end a command write it, and a
command that transmits ends turned away, in a fatal error, or with the `OK` that follows the release. -/

open Sys2Proof.Claims

namespace Sys2Proof.Machine

/-! ### The steps that end a command -/

/-- Only the `OK` of a command that released the peripheral shows a new colour, under the four assumptions of R133. -/
theorem complete_ok_led {s : State} (hp : s.phase = .tornDown) :
    (complete .ok s).led
      = ledAfter s.ledAssumptions s.enc.pat0 s.enc.pat1 s.operands.r s.operands.g s.operands.b := by
  rw [complete_led, ledAfterCommand, if_pos ⟨rfl, hp⟩, ledAfterOk_eq_ledAfter]

theorem complete_invalidArgument_led (s : State) : (complete .invalidArgument s).led = s.led := by
  simp [ledAfterCommand]

/-! ### A command that transmits -/

/-- Where a command that transmits, taken in `s`, stands in the state `t`, by what the LED will show or shows. -/
inductive LedStage (s t : State) : Prop where
  /-- A validation failed before the peripheral was touched (41_encoder.md R81). -/
  | turnedAway (todo : t.todo = some (.complete .invalidArgument)) (led : t.led = s.led)
  | asking (op : PeriphOp) (todo : t.todo = some (.ask op)) (phase : t.phase = op.phase)
  | failing (e : CmdError) (todo : t.todo = some (.fatal e))
  | released (todo : t.todo = some (.complete .ok)) (phase : t.phase = .tornDown)
  | endedInvalid (todo : t.todo = none) (last : t.trace.getLast? = some (.complete .invalidArgument))
      (led : t.led = s.led)
  | endedFatal (e : CmdError) (todo : t.todo = none) (last : t.trace.getLast? = some (.fatal e))
      (led : t.led = .unknown)
  | endedOk (todo : t.todo = none) (last : t.trace.getLast? = some (.complete .ok))
      (led : t.led = ledAfter t.ledAssumptions t.enc.pat0 t.enc.pat1 t.operands.r t.operands.g t.operands.b)

section
variable {s t u : State}

theorem LedStage.encodeAndSend (hled : t.led = s.led) : LedStage s (encodeAndSend t) := by
  rcases encodeAndSend_cases t with ⟨-, heq⟩ | ⟨-, heq⟩ <;> rw [heq]
  · exact .turnedAway rfl hled
  · exact .asking configureOp rfl rfl

theorem LedStage.convertThen {next : State → State} (hled : t.led = s.led)
    (hnext : ∀ v : State, v.led = s.led → LedStage s (next v)) : LedStage s (convertThen next t) := by
  rcases convertThen_cases next t with ⟨-, heq⟩ | ⟨-, heq⟩ <;> rw [heq]
  · exact .turnedAway rfl hled
  · exact hnext _ hled

theorem ledStage_begins {i : Instr} (hi : transmits i = true) (h : exec i s = .next t) : LedStage s t := by
  obtain ⟨-, -, -, ⟨r, g, b, -, rfl⟩ | ⟨hue, sat, val, -, rfl⟩ | ⟨hue, sat, val, rfl, -⟩⟩ := exec_next h
  · exact .encodeAndSend rfl
  · exact .convertThen rfl fun v hled => .encodeAndSend (t := handOver v) hled
  · cases hi

/-- An answer leads to the next operation or to the fatal error, and the one of `uninstall` to the `OK`. -/
theorem LedStage.answer {op : PeriphOp} (hp : t.phase = op.phase) (hans : answer op t = .next u) : LedStage s u := by
  rcases answer_next hans with ⟨f, rest, -, -, rfl⟩ | ⟨a, rest, next, -, rfl, hnext⟩
  · rcases onFrequency_cases f (record (.periph op (.hz f)) { t with periph := { t.periph with freqs := rest } })
      with ⟨-, heq⟩ | ⟨-, -, heq⟩ | ⟨-, -, heq⟩ <;> rw [heq]
    · exact .failing .tickFault rfl
    · exact .failing .tickFault rfl
    · exact .asking _ rfl rfl
  · cases a with
    | ok =>
      rcases hnext with ⟨⟨_, _, _, _, rfl⟩, rfl⟩ | ⟨⟨_, rfl⟩, rfl⟩ | ⟨⟨_, _, _, rfl⟩, rfl⟩ | ⟨⟨_, rfl⟩, rfl⟩
      · exact .asking installOp rfl hp
      · exact .asking clockOp rfl rfl
      · exact .asking uninstallOp rfl rfl
      · exact .released rfl hp
    | err => rcases hnext with ⟨-, rfl⟩ | ⟨-, rfl⟩ | ⟨-, rfl⟩ | ⟨-, rfl⟩ <;> exact .failing _ rfl

theorem LedStage.advance {next : CommandStep} (h : LedStage s t) (htodo : t.todo = some next)
    (hadv : advance next t = .next u) : LedStage s u := by
  cases h with
  | turnedAway todo led =>
    cases htodo.symm.trans todo
    cases hadv
    exact .endedInvalid rfl (by simp) ((complete_invalidArgument_led t).trans led)
  | asking op todo phase =>
    cases htodo.symm.trans todo
    exact .answer phase hadv
  | failing e todo =>
    cases htodo.symm.trans todo
    cases hadv
    exact .endedFatal e rfl (by simp) rfl
  | released todo phase =>
    cases htodo.symm.trans todo
    cases hadv
    exact .endedOk rfl (by simp) (complete_ok_led phase)
  | endedInvalid todo | endedFatal _ todo | endedOk todo => cases htodo.symm.trans todo

theorem commandReaches_ledStage {i : Instr} (hi : transmits i = true) (hr : s.host.resetReq = false)
    (h : CommandReaches i s t) : LedStage s t := by
  refine (commandReaches_induction (P := fun u => u.host.resetReq = false ∧ LedStage s u) h ?_ ?_).2
  · intro u hexec
    obtain ⟨hhost, -⟩ := exec_host_status_trace hexec
    exact ⟨hhost ▸ hr, ledStage_begins hi hexec⟩
  · rintro u v ⟨hquiet, hstage⟩ htodo hstep
    obtain ⟨next, hnext, hadv⟩ := step_of_inProgress hquiet htodo hstep
    obtain ⟨hframe, -⟩ := advance_frame hadv
    exact ⟨hframe.host ▸ hquiet, hstage.advance hnext hadv⟩

end

/-- Settles O50: whole commands by the stage they end in, `HSV2RGB` by its frame, single steps by what they do. -/
theorem ledFollowsTheOutcome : Obligations.LedFollowsTheOutcome := by
  refine ⟨fun i s t hi hr ⟨hreach, hend⟩ => ?_, fun s t h sat val hr hreach => ?_, fun s t hr hstep => ?_⟩
  · cases commandReaches_ledStage hi hr hreach with
    | turnedAway todo | asking _ todo | failing _ todo | released todo => cases hend.symm.trans todo
    | endedInvalid _ last led => exact ⟨fun _ => led, by simp [last], by simp [last]⟩
    | endedFatal e _ last led => exact ⟨by simp [last], fun _ _ => led, by simp [last]⟩
    | endedOk _ last led => exact ⟨by simp [last], by simp [last], fun _ => led⟩
  · obtain ⟨-, -, hled, -⟩ := hsv2rgbFrame s t h sat val hr hreach
    exact hled
  · have hadv {next : CommandStep} (htodo : s.todo = some next) : advance next s = .next t := by
      rw [← hstep, step_of_todo hr (fault_of_step_next hr hstep) htodo]
    refine ⟨fun htodo => ?_, fun e htodo => ?_, fun htodo hp => ?_⟩ <;> cases hadv htodo
    · exact complete_invalidArgument_led s
    · rfl
    · exact complete_ok_led hp

end Sys2Proof.Machine
end

section
/-! PROOFS. The state at reset, and what a requested reset does (70_reset_and_hazards.md R135, 10_state.md R29). -/

namespace Sys2Proof.Machine

/-- Settles O14: each register of `State.reset` stands there as R29, R135 and R6 give it; only the ownership is computed,
from the idle phase. -/
theorem resetStateIsIdle : Obligations.ResetStateIsIdle := by
  have howned : State.reset.ownership = .notOwned := by simp [State.ownership, State.reset]
  exact ⟨rfl, rfl, rfl, howned, rfl, rfl, rfl, rfl, rfl⟩

/-- Settles O15: a requested reset is the step `applyReset`, whose `applyReset_` lemmas give every register, and a block
with `FAULT = 1` takes no other step
(60_exceptions.md R125). -/
theorem resetIssuesNothingAndClearsFault : Obligations.ResetIssuesNothingAndClearsFault := by
  refine ⟨fun s hreq => ⟨applyReset s, step_of_resetReq hreq, ?_⟩, fun s t hstep hfault _ => ?_⟩
  · simp
  · obtain ⟨-, -, honlyReset⟩ := faultHoldsUntilReset s hfault
    obtain ⟨hreq, -⟩ := honlyReset t hstep
    exact hreq

end Sys2Proof.Machine
end
